-- ==== Sys2Proof/Word.lean ====
section
/-!
DEFINITION. The two number types of the spec (00_scope R9): the byte and the u16, each a bit vector read unsigned,
bit 0 its least significant bit (log entry 19). All arithmetic on them stands in Machine/Checksum.lean.
-/

namespace Sys2Proof

/-- An unsigned integer 0 to 255 (00_scope R9, `BYTE_BITS` = 8 of R8). -/
abbrev Byte := BitVec 8

/-- An unsigned integer 0 to 65535 (00_scope R9, `CSUM_BITS` = 16 of R8). -/
abbrev U16 := BitVec 16

end Sys2Proof
end

