-- ==== Sys2Proof/Machine/Checksum.lean ====
section
/-!
DEFINITION. The Checksum Engine's functions (layer F, 40_checksum R100 to R104), with the width changes of 00_scope R10 and the
list notation of R11. Sums and negations are computed exactly, in `Nat` or `Int`, and narrowed once at the end.
-/

namespace Sys2Proof.Machine

/-! ## Width changes (00_scope R10) and lists (R11) -/

/-- `zext_16(b)`. -/
def zext16 (b : Byte) : U16 := BitVec.ofNat 16 b.toNat

/-- `as_i16(v)`: the two's complement reading. -/
def asI16 (v : U16) : Int := if v.toNat < 32768 then (v.toNat : Int) else (v.toNat : Int) - 65536

/-- `as_u16(s)`: `s mod 65536`. -/
def asU16 (s : Int) : U16 := BitVec.ofInt 16 s

/-- `neg16(v)`: `(65536 - v) mod 65536`. -/
def neg16 (v : U16) : U16 := BitVec.ofNat 16 ((65536 - v.toNat) % 65536)

/-- `hi8(v)`: bits 15 to 8. -/
def hi8 (v : U16) : Byte := BitVec.ofNat 8 (v.toNat / 256)

/-- `lo8(v)`: bits 7 to 0. -/
def lo8 (v : U16) : Byte := BitVec.ofNat 8 (v.toNat % 256)

/-- `be16(hi, lo)`: `hi * 256 + lo`. -/
def be16 (hi lo : Byte) : U16 := BitVec.ofNat 16 (hi.toNat * 256 + lo.toNat)

/-- `sum(l)`: the sum of the elements as unbounded integers. -/
def sumBytes : List Byte → Nat
  | [] => 0
  | b :: rest => b.toNat + sumBytes rest

/-- `l[i..j]`: the elements of index `i <= k < j`. -/
def slice (l : List Byte) (i j : Nat) : List Byte := (l.drop i).take (j - i)

/-- `l[i]`, for an index inside the list. -/
def byteAt (l : List Byte) (i : Nat) : Byte := l.getD i 0#8

/-! ## The engine -/

/-- `calc_checksum(size, payload) = (size + sum(payload)) mod 65536` (40_checksum R100). -/
def calcChecksum (size : Byte) (payload : List Byte) : U16 :=
  BitVec.ofNat 16 ((size.toNat + sumBytes payload) % 65536)

/-- The accumulator walk of 40_checksum R101: one operand a step, `acc <- (acc + zext_16(payload[i])) mod 65536`. -/
def serialChecksumFrom (acc : U16) : List Byte → U16
  | [] => acc
  | b :: rest => serialChecksumFrom (BitVec.ofNat 16 ((acc.toNat + (zext16 b).toNat) % 65536)) rest

/-- The byte-serial form of `calc_checksum` (40_checksum R101). -/
def serialChecksum (size : Byte) (payload : List Byte) : U16 := serialChecksumFrom (zext16 size) payload

/-- One step of the 8-bit-adder datapath of 40_checksum R101, on the accumulator's two halves `(hi, lo)`. The carry out of
`hi` is dropped. -/
def splitStep (acc : Byte × Byte) (b : Byte) : Byte × Byte :=
  let t := acc.2.toNat + b.toNat
  let carry := if 256 ≤ t then 1 else 0
  (BitVec.ofNat 8 ((acc.1.toNat + carry) % 256), BitVec.ofNat 8 (t % 256))

/-- The 8-bit-adder form of `calc_checksum` (40_checksum R101), as the pair `(hi, lo)`. -/
def splitChecksum (size : Byte) (payload : List Byte) : Byte × Byte := payload.foldl splitStep (0#8, size)

/-- `rx_checksum(hi, lo)`: big-endian, read signed, negated, reinterpreted unsigned (40_checksum R102, 30_encoding R78). -/
def rxChecksum (hi lo : Byte) : U16 := asU16 (-asI16 (be16 hi lo))

/-- `tx_checksum(c)`: the two bytes the encoder appends, high byte first (40_checksum R104). -/
def txChecksum (c : U16) : Byte × Byte := (hi8 (asU16 (-asI16 c)), lo8 (asU16 (-asI16 c)))

/-! ## The split of a message `[length, payload..., checksumHi, checksumLo]` (42_decoder R151) -/

/-- The payload: all bytes between the length byte and the last two. -/
def payloadOf (m : List Byte) : List Byte := slice m 1 (m.length - 2)

/-- `checksumHi`, the second byte from the end (20_memory R55). -/
def checksumHi (m : List Byte) : Byte := byteAt m (m.length - 2)

/-- `checksumLo`, the last byte (20_memory R55). -/
def checksumLo (m : List Byte) : Byte := byteAt m (m.length - 1)

/-- `checksum_ok(m)`, for a message of at least three bytes (40_checksum R103). -/
def checksumOk (m : List Byte) : Bool :=
  calcChecksum (byteAt m 0) (payloadOf m) == rxChecksum (checksumHi m) (checksumLo m)

end Sys2Proof.Machine
end

