-- ==== Sys2Proof/Config.lean ====
section
/-!
DEFINITION. What is fixed for one built block and what the spec leaves open: the parameters of 00_scope R8, and the
free values. An `opaque` constant has no body: no proof can see its value, so a claim holds for every value of it.
-/

namespace Sys2Proof

/-- How far `MAXMSG` exceeds 256. OPEN (00_scope R8, 92 D2): any natural number. Log entry 6. -/
opaque Config.extraBytes : Nat

/-- `MAXMSG`, the capacity in bytes of IBUF and of OBUF: any natural number of at least 256 (00_scope R8). -/
def Config.maxMsg : Nat := Config.extraBytes + 256

/-- `n > MAXMSG`, written so that a length of at most 256 is decided without knowing `MAXMSG`
(`Config.tooLong_iff` of Laws/Config.lean says the two are the same). -/
def Config.tooLong (n : Nat) : Bool := decide (256 < n) && decide (Config.extraBytes < n - 256)

/-- `LENW`, the least w with 2^w > `MAXMSG` (00_scope R8). -/
def Config.lenw : Nat := Nat.log2 Config.maxMsg + 1

/-- What a register of `LENW` bits keeps of a number: its low `LENW` bits. A number of at most 256 is kept whole,
since 256 < 2^LENW (`Config.lenTrunc_eq` of Laws/Config.lean says this is `n % 2^LENW`). -/
def Config.lenTrunc (n : Nat) : Nat := if n ≤ 256 then n else n % 2 ^ Config.lenw

/-- The part of `CT_SET` the source does not list. OPEN (00_scope R8, 91 N2): any set of bytes. Log entry 7. -/
opaque Config.ctRaw : Byte → Bool

/-- Membership in `CT_SET` (41_enum_tables R130): every member lies in 0x01 to 0xe1, and 0x33 and 0x41 are no members.
Every set that R130 admits is of this form for some `Config.ctRaw`. -/
def Config.ctSet (b : Byte) : Bool :=
  decide (0x01 ≤ b.toNat) && decide (b.toNat ≤ 0xe1) && !(b == 0x33#8) && !(b == 0x41#8) && Config.ctRaw b

/-- The two ways the host may treat the data of a DecodeData frame (60_exceptions R213). -/
inductive DdPolicy where
  /-- Variant A: the first data byte is looked up as a content type. -/
  | a
  /-- Variant B: the content type is skipped. -/
  | b
  deriving DecidableEq, Repr, Inhabited

/-- `DD_POLICY`. OPEN, host side only (00_scope R8, 92 D23). Log entry 8. -/
opaque Config.ddPolicy : DdPolicy

/-- The free values: number `slot` of draw `draw`. Where the spec says a register or a byte "holds no value"
(93 U1) the model stores or returns one of these. Log entries 4 and 5. -/
opaque Config.freeNat (draw slot : Nat) : Nat

end Sys2Proof
end

