-- ==== Sys2Proof/Syntax.lean ====
section
/-!
DEFINITION. The instructions: one constructor for each of the 18 rows of spec/opcode_table.json (30_encoding R92).

The nine command rows have no operand fields (30_encoding R88): their operands are in registers and in IBUF.

The nine frame rows are code values of one field of a message's header. Such an instruction is an inbound message whose
header holds that value; its operands are the message's other bytes: `length` (offset 0), `opcode` (1), `source` (2),
`status` (3) and `rest`, the bytes from offset 4 on, data and checksum together (30_encoding R70, R77). Log entry 11.
-/

namespace Sys2Proof

inductive Instr where
  /-- ACK: opcode byte 0xd0 (30_encoding R80). -/
  | ack (length source status : Byte) (rest : List Byte)
  /-- NACK: opcode byte 0xd1 (30_encoding R80). -/
  | nack (length source status : Byte) (rest : List Byte)
  /-- DECODE_DATA: opcode byte 0xf3 (30_encoding R80). -/
  | decodeData (length source status : Byte) (rest : List Byte)
  /-- OTHER: any of the other 253 opcode bytes (30_encoding R80, R84). -/
  | other (length opcode source status : Byte) (rest : List Byte)
  /-- SRC_SCANNER: source byte 0x00 (30_encoding R81). -/
  | srcScanner (length opcode status : Byte) (rest : List Byte)
  /-- SRC_HOST: source byte 0x04 (30_encoding R81). -/
  | srcHost (length opcode status : Byte) (rest : List Byte)
  /-- ST_RETRANSMIT: bit 0 of the status byte is 1 (30_encoding R82). -/
  | stRetransmit (length opcode source status : Byte) (rest : List Byte)
  /-- ST_CONTINUATION: bit 1 of the status byte is 1 (30_encoding R82). -/
  | stContinuation (length opcode source status : Byte) (rest : List Byte)
  /-- ST_CHANGETYPE: bit 3 of the status byte is 1 (30_encoding R82). -/
  | stChangeType (length opcode source status : Byte) (rest : List Byte)
  /-- CSUM, command code 0x1 (40_checksum R105). -/
  | csum
  /-- DECODE, command code 0x2 (42_decoder R156). -/
  | decode
  /-- WRAP, command code 0x3 (43_encoder R174). -/
  | wrap
  /-- OPDEC, command code 0x4 (41_enum_tables R132). -/
  | opdec
  /-- OPENC, command code 0x5 (41_enum_tables R133). -/
  | openc
  /-- SRCDEC, command code 0x6 (41_enum_tables R134). -/
  | srcdec
  /-- SRCENC, command code 0x7 (41_enum_tables R135). -/
  | srcenc
  /-- STDEC, command code 0x8 (41_enum_tables R136). -/
  | stdec
  /-- CTDEC, command code 0x9 (41_enum_tables R137). -/
  | ctdec
  deriving DecidableEq, Repr

end Sys2Proof
end

