-- ==== Sys2Proof/WellFormed.lean ====
section
/-!
DEFINITION. Which terms of `Instr` are instructions. A command always is. A frame row's message fits IBUF
(20_memory R50, 92 D2), its field really matches the row (30_encoding R92), OTHER stands only for a byte no other opcode
row matches (the row's "fallback"), and where several status rows match one byte the row of the lowest bit is taken, so
that one message has one instruction per format (log entry 11).
-/

namespace Sys2Proof

/-- The opcode byte is one of the three named ones (30_encoding R80). -/
def namedOpcode (b : Byte) : Bool := b == 0xd0#8 || b == 0xd1#8 || b == 0xf3#8

/-- A message of a four-byte header and `rest` fits IBUF. -/
def messageFits (rest : List Byte) : Bool := !Config.tooLong (rest.length + 4)

def Instr.wellFormed : Instr → Bool
  | .ack _ _ _ rest => messageFits rest
  | .nack _ _ _ rest => messageFits rest
  | .decodeData _ _ _ rest => messageFits rest
  | .other _ opcode _ _ rest => !namedOpcode opcode && messageFits rest
  | .srcScanner _ _ _ rest => messageFits rest
  | .srcHost _ _ _ rest => messageFits rest
  | .stRetransmit _ _ _ status rest => status.getLsbD 0 && messageFits rest
  | .stContinuation _ _ _ status rest => !status.getLsbD 0 && status.getLsbD 1 && messageFits rest
  | .stChangeType _ _ _ status rest =>
    !status.getLsbD 0 && !status.getLsbD 1 && status.getLsbD 3 && messageFits rest
  | .csum => true
  | .decode => true
  | .wrap => true
  | .opdec => true
  | .openc => true
  | .srcdec => true
  | .srcenc => true
  | .stdec => true
  | .ctdec => true

end Sys2Proof
end

