-- ==== Sys2Proof/Decode.lean ====
section
/-!
DEFINITION. Decoding bytes into instructions, then the encoder.

The table has four formats (30_encoding R92): the command code written to CMD, and one for each of the three header fields
whose code values have rows. Decoding is total: bytes that are no instruction of the format are refused by name. That
refusal is the decoder's; what the machine does with such a code or message is in Machine/HostAgent.lean (an unassigned
command code is BadCommand, 30_encoding R89; a message with a reserved source byte is decoded all the same, R85).
-/

namespace Sys2Proof

/-- The header fields whose code values have rows in the opcode table. -/
inductive Field where
  | opcode
  | source
  | status
  deriving DecidableEq, Repr

/-- The "format" column of the opcode table: command, frame.opcode, frame.source, frame.status. -/
inductive Format where
  | command
  | frame (field : Field)
  deriving DecidableEq, Repr

/-- Why bytes are no instruction. -/
inductive Reject where
  /-- Command codes 0x0 and 0xA to 0xF name no command (30_encoding R89). -/
  | unassignedCommand (code : BitVec 4)
  /-- A command is one value of 4 bits (30_encoding R88). -/
  | notOneCode
  /-- A message of fewer than four bytes has no whole header (30_encoding R70). -/
  | headerIncomplete
  /-- The source byte is one of the 254 reserved values (30_encoding R85). -/
  | reservedSource (b : Byte)
  /-- No named bit of the status byte is set (30_encoding R82). -/
  | noNamedFlag
  deriving DecidableEq, Repr

/-- The command a 4-bit code names (30_encoding R88, R89). -/
def decodeCommand (code : BitVec 4) : Except Reject Instr :=
  if code = 0x1#4 then .ok .csum
  else if code = 0x2#4 then .ok .decode
  else if code = 0x3#4 then .ok .wrap
  else if code = 0x4#4 then .ok .opdec
  else if code = 0x5#4 then .ok .openc
  else if code = 0x6#4 then .ok .srcdec
  else if code = 0x7#4 then .ok .srcenc
  else if code = 0x8#4 then .ok .stdec
  else if code = 0x9#4 then .ok .ctdec
  else .error (.unassignedCommand code)

/-- The frame row that one field of a message's header matches (30_encoding R80 to R82, R92). -/
def decodeFrame : Field → List Byte → Except Reject Instr
  | .opcode, length :: opcode :: source :: status :: rest =>
    if opcode = 0xd0#8 then .ok (.ack length source status rest)
    else if opcode = 0xd1#8 then .ok (.nack length source status rest)
    else if opcode = 0xf3#8 then .ok (.decodeData length source status rest)
    else .ok (.other length opcode source status rest)
  | .source, length :: opcode :: source :: status :: rest =>
    if source = 0x00#8 then .ok (.srcScanner length opcode status rest)
    else if source = 0x04#8 then .ok (.srcHost length opcode status rest)
    else .error (.reservedSource source)
  | .status, length :: opcode :: source :: status :: rest =>
    if status.getLsbD 0 then .ok (.stRetransmit length opcode source status rest)
    else if status.getLsbD 1 then .ok (.stContinuation length opcode source status rest)
    else if status.getLsbD 3 then .ok (.stChangeType length opcode source status rest)
    else .error .noNamedFlag
  | _, _ => .error .headerIncomplete

/-- The instruction a list of bytes is, under one format. A command is one byte whose low four bits are the code
(a 4-bit register holds no more). A message is the whole list: nothing in it tells where it ends (30_encoding R77). -/
def decodeBytes : Format → List Byte → Except Reject Instr
  | .command, [b] => if b.toNat < 16 then decodeCommand (b.truncate 4) else .error .notOneCode
  | .command, _ => .error .notOneCode
  | .frame field, bytes => decodeFrame field bytes

/-! ## The encoder -/

/-- The format an instruction belongs to. -/
def formatOf : Instr → Format
  | .ack _ _ _ _ => .frame .opcode
  | .nack _ _ _ _ => .frame .opcode
  | .decodeData _ _ _ _ => .frame .opcode
  | .other _ _ _ _ _ => .frame .opcode
  | .srcScanner _ _ _ _ => .frame .source
  | .srcHost _ _ _ _ => .frame .source
  | .stRetransmit _ _ _ _ _ => .frame .status
  | .stContinuation _ _ _ _ _ => .frame .status
  | .stChangeType _ _ _ _ _ => .frame .status
  | .csum => .command
  | .decode => .command
  | .wrap => .command
  | .opdec => .command
  | .openc => .command
  | .srcdec => .command
  | .srcenc => .command
  | .stdec => .command
  | .ctdec => .command

/-- The bytes of an instruction: a command's code (30_encoding R88), a frame row's message (30_encoding R70). -/
def encode : Instr → List Byte
  | .ack length source status rest => length :: 0xd0#8 :: source :: status :: rest
  | .nack length source status rest => length :: 0xd1#8 :: source :: status :: rest
  | .decodeData length source status rest => length :: 0xf3#8 :: source :: status :: rest
  | .other length opcode source status rest => length :: opcode :: source :: status :: rest
  | .srcScanner length opcode status rest => length :: opcode :: 0x00#8 :: status :: rest
  | .srcHost length opcode status rest => length :: opcode :: 0x04#8 :: status :: rest
  | .stRetransmit length opcode source status rest => length :: opcode :: source :: status :: rest
  | .stContinuation length opcode source status rest => length :: opcode :: source :: status :: rest
  | .stChangeType length opcode source status rest => length :: opcode :: source :: status :: rest
  | .csum => [0x01#8]
  | .decode => [0x02#8]
  | .wrap => [0x03#8]
  | .opdec => [0x04#8]
  | .openc => [0x05#8]
  | .srcdec => [0x06#8]
  | .srcenc => [0x07#8]
  | .stdec => [0x08#8]
  | .ctdec => [0x09#8]

/-! ## The opcode table's frame rows, as masks (30_encoding R92) -/

/-- The header word `H = m[0] * 2^24 + m[1] * 2^16 + m[2] * 2^8 + m[3]` (30_encoding R92). -/
def headerWord (length opcode source status : Byte) : BitVec 32 :=
  BitVec.ofNat 32 (length.toNat * 2 ^ 24 + opcode.toNat * 2 ^ 16 + source.toNat * 2 ^ 8 + status.toNat)

/-- One frame row of the opcode table. -/
structure FrameRow where
  mnemonic : String
  field : Field
  mask : BitVec 32
  value : BitVec 32
  deriving DecidableEq, Repr

/-- "A frame field matches a row when `H & mask = match`" (30_encoding R92). -/
def FrameRow.accepts (row : FrameRow) (header : BitVec 32) : Bool := header &&& row.mask == row.value

/-- The nine frame rows, in the table's order. OTHER comes last of the opcode rows: it is the fallback. -/
def frameRows : List FrameRow :=
  [ ⟨"ACK", .opcode, 0x00FF0000#32, 0x00D00000#32⟩,
    ⟨"NACK", .opcode, 0x00FF0000#32, 0x00D10000#32⟩,
    ⟨"DECODE_DATA", .opcode, 0x00FF0000#32, 0x00F30000#32⟩,
    ⟨"OTHER", .opcode, 0x00000000#32, 0x00000000#32⟩,
    ⟨"SRC_SCANNER", .source, 0x0000FF00#32, 0x00000000#32⟩,
    ⟨"SRC_HOST", .source, 0x0000FF00#32, 0x00000400#32⟩,
    ⟨"ST_RETRANSMIT", .status, 0x00000001#32, 0x00000001#32⟩,
    ⟨"ST_CONTINUATION", .status, 0x00000002#32, 0x00000002#32⟩,
    ⟨"ST_CHANGETYPE", .status, 0x00000008#32, 0x00000008#32⟩ ]

/-- The mnemonic of the first row of a field that a header word matches. -/
def rowOf (field : Field) (header : BitVec 32) : Option String :=
  (frameRows.find? (fun row => row.field == field && row.accepts header)).map FrameRow.mnemonic

/-- The opcode table's mnemonic of an instruction. -/
def mnemonicOf : Instr → String
  | .ack _ _ _ _ => "ACK"
  | .nack _ _ _ _ => "NACK"
  | .decodeData _ _ _ _ => "DECODE_DATA"
  | .other _ _ _ _ _ => "OTHER"
  | .srcScanner _ _ _ _ => "SRC_SCANNER"
  | .srcHost _ _ _ _ => "SRC_HOST"
  | .stRetransmit _ _ _ _ _ => "ST_RETRANSMIT"
  | .stContinuation _ _ _ _ _ => "ST_CONTINUATION"
  | .stChangeType _ _ _ _ _ => "ST_CHANGETYPE"
  | .csum => "CSUM"
  | .decode => "DECODE"
  | .wrap => "WRAP"
  | .opdec => "OPDEC"
  | .openc => "OPENC"
  | .srcdec => "SRCDEC"
  | .srcenc => "SRCENC"
  | .stdec => "STDEC"
  | .ctdec => "CTDEC"

/-! ## A word of the opcode table (log entry 12) -/

/-- Which format a word of the opcode table is of. The table's rows carry no tag in their bits, and rows of different
formats overlap, so the format is told from the bits the row gives: up to 8 for a command or a status row, 16 for a source
row, 24 for an opcode row. Of the words of 8 bits those of 4 are command codes. A word given with all 32 bits is of the
format of the highest field that is not zero. -/
def tableFormat (nbits w : Nat) : Format :=
  if nbits ≤ 8 then if w < 16 then .command else .frame .status
  else if nbits ≤ 16 then .frame .source
  else if nbits ≤ 24 then .frame .opcode
  else if w = 0 ∨ 0x10000 ≤ w then .frame .opcode
  else if w < 0x100 then .frame .status
  else .frame .source

/-- The bytes of a table word as they lie in the machine: a command's code in one byte; a header word with its highest
byte at offset 0 (30_encoding R92), then two zero bytes, the checksum field of the shortest message (30_encoding R70). -/
def tableBytes : Format → Nat → List Byte
  | .command, w => [BitVec.ofNat 8 w]
  | .frame _, w =>
    [BitVec.ofNat 8 (w / 2 ^ 24), BitVec.ofNat 8 (w / 2 ^ 16), BitVec.ofNat 8 (w / 2 ^ 8), BitVec.ofNat 8 w, 0x00#8, 0x00#8]

/-- The instruction the decoder reads from a word of the opcode table. -/
def decodeTableWord (nbits w : Nat) : Option Instr :=
  match decodeBytes (tableFormat nbits w) (tableBytes (tableFormat nbits w) w) with
  | .ok i => some i
  | .error _ => none

end Sys2Proof
end

