-- ==== Sys2Proof/Machine/State.lean ====
section
/-!
DEFINITION. The machine's state (10_state) as plain data, the state after reset (10_state R39), and the reasons a step
can stop. What the spec calls state is every field up to `obuf`; the last six are the model's own.
-/

namespace Sys2Proof.Machine

/-- One byte buffer: the bytes that hold a value, by offset, offsets strictly rising. A byte that is not listed holds no
value (10_state R39). Log entry 3. -/
abbrev Mem := List Host.Cell

/-- What the host can name in a read or a write (10_state R38). -/
inductive Port where
  | ilen | size | arg | argk | cmd
  | err | errb | cValid | fValid | oValid | rValid
  | csum
  | fLength | fOpKind | fOpByte | fSource | fStatus | fDoff | fDlen
  | olen
  | res | resk
  | ibuf (offset : Nat)
  | obuf (offset : Nat)
  deriving DecidableEq, Repr

/-- The host's own variables, which the pseudo-command FRAME names (30_encoding R91). -/
inductive HostVar where
  | x
  | y
  deriving DecidableEq, Repr

/-- The machine's inputs: the host's steps (10_state R38, 30_encoding R90, 60_exceptions R211 to R214) and reset
(70_reset R220). Log entry 10. -/
inductive Event where
  /-- The host writes a value to a register or a buffer byte; `cmd` issues a command. -/
  | write (port : Port) (value : Nat)
  /-- The host reads a register or a buffer byte. -/
  | read (port : Port)
  /-- `REG <- OTHER`: the host reads the source and writes what it got to the destination. -/
  | copy (dst src : Port)
  /-- `x <- RES`: the host reads the source and keeps what it got in a variable (30_encoding R91). -/
  | keep (var : HostVar) (src : Port)
  /-- The host writes what a variable holds to the destination: `x` and `y` in `IBUF <- [x, y, f] ++ data`. -/
  | put (dst : Port) (var : HostVar)
  /-- `IBUF <- OBUF`: the host copies `OBUF[0..OLEN]` to IBUF and writes `ILEN <- OLEN`. -/
  | loopback
  /-- `SEND OBUF`: the host hands `OBUF[0..OLEN]` to the transport. -/
  | send
  /-- A message whose header field is looked at as a row of the opcode table: presented in IBUF and decoded. -/
  | message (field : Field) (bytes : List Byte)
  /-- A read event of the Session Loop: the bytes of one inbound read. -/
  | inbound (bytes : List Byte)
  /-- The Session Loop looks at the outcome of its DECODE. -/
  | react
  /-- The Session Loop treats the data of the frame it acknowledged. -/
  | handleData
  /-- A transport timeout: no frame this cycle. -/
  | timeout
  /-- The reset event. -/
  | reset
  deriving DecidableEq, Repr

structure State where
  /-- `ILEN`, `LENW` bits (10_state R25). -/
  ilen : Nat
  /-- `SIZE` (10_state R25). -/
  size : Byte
  /-- `ARG` (10_state R25). -/
  arg : Byte
  /-- `ARGK` (10_state R25). -/
  argk : BitVec 2
  /-- `CMD`: the code the host has written and the engine has not yet executed, if any (10_state R26, R39). -/
  cmd : Option (BitVec 4)
  /-- `ERR` (10_state R27). -/
  err : BitVec 3
  /-- `ERRB` (10_state R27). -/
  errb : Byte
  /-- `C_VALID` (10_state R28). -/
  cValid : Bool
  /-- `F_VALID` (10_state R28). -/
  fValid : Bool
  /-- `O_VALID` (10_state R28). -/
  oValid : Bool
  /-- `R_VALID` (10_state R28). -/
  rValid : Bool
  /-- `CSUM` (10_state R29). -/
  csum : U16
  /-- `F_LENGTH` (10_state R30). -/
  fLength : Byte
  /-- `F_OPKIND`, encoded as 10_state R37 says (10_state R30). -/
  fOpKind : BitVec 2
  /-- `F_OPBYTE` (10_state R30). -/
  fOpByte : Byte
  /-- `F_SOURCE`: 0 Scanner, 1 Host (10_state R30, R37). -/
  fSource : BitVec 1
  /-- `F_STATUS` (10_state R30). -/
  fStatus : Byte
  /-- `F_DOFF`, `LENW` bits (10_state R30). -/
  fDoff : Nat
  /-- `F_DLEN`, `LENW` bits (10_state R30). -/
  fDlen : Nat
  /-- `OLEN`, `LENW` bits (10_state R31). -/
  olen : Nat
  /-- `RES` (10_state R32). -/
  res : Byte
  /-- `RESK` (10_state R32, R37). -/
  resk : BitVec 2
  /-- IBUF (10_state R34). -/
  ibuf : Mem
  /-- OBUF (10_state R35). -/
  obuf : Mem
  /-- The MODEL's own: the host steps and resets still to come, first first. Log entry 10. -/
  events : List Event
  /-- The MODEL's own: the value the last host read returned. Log entry 5. -/
  rdata : Nat
  /-- The MODEL's own: the host's variable `x` (30_encoding R91). Log entry 25. -/
  hostX : Nat
  /-- The MODEL's own: the host's variable `y` (30_encoding R91). Log entry 25. -/
  hostY : Nat
  /-- The MODEL's own: what the host has handed to the transport, oldest first. Log entry 16. -/
  sent : List (List Byte)
  /-- The MODEL's own: how many draws of free values have been made. Log entry 4. -/
  draws : Nat
  deriving DecidableEq, Repr

/-- The reasons the model stops (60_exceptions R207: conditions outside what CORE reports in `ERR`). -/
inductive Fault where
  /-- Raised by CSUM, DECODE and WRAP (and a frame row) when they read an IBUF byte that nothing has written since reset
  (60_exceptions R207, 70_reset R223). Safe: the hardware raises nothing and reads some value. -/
  | unwrittenIbuf
  /-- Raised by a host access at an offset of `MAXMSG` or more, where no byte exists (20_memory R50), a message longer than
  IBUF among them (92 D2). Safe. -/
  | noSuchByte
  deriving DecidableEq, Repr

/-- The reasons the model gives no meaning. -/
inductive Refusal where
  /-- Raised by an arm of `exec` whose instruction has no meaning yet (none is left). Safe. -/
  | notModelled (mnemonic : String)
  /-- Raised by the HOST's step `handleData` for a DecodeData frame without data, for which the host has no step
  (93 U5, 60_exceptions R213). Safe. -/
  | emptyDecodeData
  deriving DecidableEq, Repr

/-- The state after reset (10_state R39): `ERR` and `ERRB` 0, the valid bits 0, no command pending, no buffer byte holding a
value. The other registers "hold no value" there; each is 0 here. Log entry 1. -/
def State.reset : State where
  ilen := 0
  size := 0
  arg := 0
  argk := 0
  cmd := none
  err := 0
  errb := 0
  cValid := false
  fValid := false
  oValid := false
  rValid := false
  csum := 0
  fLength := 0
  fOpKind := 0
  fOpByte := 0
  fSource := 0
  fStatus := 0
  fDoff := 0
  fDlen := 0
  olen := 0
  res := 0
  resk := 0
  ibuf := []
  obuf := []
  events := []
  rdata := 0
  hostX := 0
  hostY := 0
  sent := []
  draws := 0

end Sys2Proof.Machine
end

