-- ==== Sys2Proof/Machine/Tables.lean ====
section
/-!
DEFINITION. The Enumeration Tables (layer F, 41_enum_tables R120 to R131): the types, the ROM tables (10_state R36), the
mappings, and the register encodings of the enumerations (10_state R37).
-/

namespace Sys2Proof.Machine

/-! ## OpCode -/

/-- The type `OpCode` (41_enum_tables R120). -/
inductive OpCode where
  | ack
  | nack
  | decodeData
  | other (b : Byte)
  deriving DecidableEq, Repr

/-- OPROM, the three named opcode values (10_state R36, 30_encoding R80). Searched by value (20_memory R53). -/
def opRom : List (Byte × OpCode) := [(0xd0#8, .ack), (0xd1#8, .nack), (0xf3#8, .decodeData)]

/-- `opcode_of_byte(b)`: the table's entry, else `Other(b)` (41_enum_tables R121). -/
def opcodeOfByte (b : Byte) : OpCode := (opRom.lookup b).getD (.other b)

/-- `byte_of_opcode(o)` (41_enum_tables R122). -/
def byteOfOpcode : OpCode → Byte
  | .ack => 0xd0#8
  | .nack => 0xd1#8
  | .decodeData => 0xf3#8
  | .other b => b

/-- The register encoding of an opcode's kind (10_state R37). -/
def kindOfOpcode : OpCode → BitVec 2
  | .ack => 0#2
  | .nack => 1#2
  | .decodeData => 2#2
  | .other _ => 3#2

/-- The opcode that a kind and a byte in registers stand for (10_state R37, 41_enum_tables R133). -/
def opcodeOfKind (kind : BitVec 2) (b : Byte) : OpCode :=
  if kind = 0#2 then .ack else if kind = 1#2 then .nack else if kind = 2#2 then .decodeData else .other b

/-! ## Source -/

/-- The type `Source` (41_enum_tables R123). -/
inductive Source where
  | scanner
  | host
  deriving DecidableEq, Repr

/-- SRCROM, the two source values (10_state R36, 30_encoding R81). Searched by value (20_memory R53). -/
def srcRom : List (Byte × Source) := [(0x00#8, .scanner), (0x04#8, .host)]

/-- `source_of_byte(b)` (41_enum_tables R124): `none` stands for `Err(InvalidSource(b))`, which carries `b` itself. -/
def sourceOfByte (b : Byte) : Option Source := srcRom.lookup b

/-- `byte_of_source(s)` (41_enum_tables R125). -/
def byteOfSource : Source → Byte
  | .scanner => 0x00#8
  | .host => 0x04#8

/-- `F_SOURCE` (10_state R30, R37). -/
def sourceBit : Source → BitVec 1
  | .scanner => 0#1
  | .host => 1#1

/-- `RESK` after SRCDEC (10_state R37). -/
def kindOfSource : Source → BitVec 2
  | .scanner => 0#2
  | .host => 1#2

/-- The source that `ARGK` names; 2 and 3 name none (41_enum_tables R135). -/
def sourceOfKind (kind : BitVec 2) : Option Source :=
  if kind = 0#2 then some .scanner else if kind = 1#2 then some .host else none

/-! ## Status -/

/-- The type `Status`: a set of the three named flags (41_enum_tables R126). -/
structure Status where
  retransmit : Bool
  continuation : Bool
  changeType : Bool
  deriving DecidableEq, Repr

/-- `STATUS_MASK` = 0x0B (00_scope R8, 30_encoding R82). -/
def statusMask : Byte := 0x0B#8

/-- `b & 0x0B`: the byte that holds `status_of_byte(b)` (41_enum_tables R127). -/
def maskStatus (b : Byte) : Byte := b &&& statusMask

/-- `status_of_byte(b)` as the set: bits 0, 1 and 3 (41_enum_tables R127). -/
def statusOfByte (b : Byte) : Status := ⟨b.getLsbD 0, b.getLsbD 1, b.getLsbD 3⟩

/-- `byte_of_status(f)`: the OR of the flags' masks (41_enum_tables R128). -/
def byteOfStatus (f : Status) : Byte :=
  (if f.retransmit then 0x01#8 else 0#8) ||| (if f.continuation then 0x02#8 else 0#8)
    ||| (if f.changeType then 0x08#8 else 0#8)

/-! ## ContentType -/

/-- The type `ContentType = { Known(c) : c in CT_SET }`: a content type is identified by its code, and only a code of
`CT_SET` makes one (41_enum_tables R129). -/
inductive ContentType where
  | known (code : Byte) (defined : Config.ctSet code = true)
  deriving DecidableEq, Repr

/-- CTROM, indexed by the byte value (10_state R36, 20_memory R53): is `b` in `CT_SET`? -/
def ctRom (b : Byte) : Bool := Config.ctSet b

/-- `content_type_of_byte(b)` (41_enum_tables R131): `none` stands for `Err(UnrecognizedContentType(b))`. -/
def contentTypeOfByte (b : Byte) : Option ContentType := if h : ctRom b = true then some (.known b h) else none

end Sys2Proof.Machine
end

