-- ==== Sys2Proof/Machine/Flags.lean ====
section
/-!
DEFINITION. What stands in for flags (10_state R33): the outcome code in `ERR` and `ERRB`, the four valid bits with the
register groups they stand for, and the status flags. There is no carry, zero, overflow or sign flag.
-/

namespace Sys2Proof.Machine

/-- The error outcomes (60_exceptions R190); success is `ERR` = 0. -/
inductive ErrKind where
  | invalidMessageLength
  | invalidChecksum
  | unrecognizedContentType (b : Byte)
  | invalidSource (b : Byte)
  | fieldsTooLong
  | badCommand
  deriving DecidableEq, Repr

/-- The value an outcome puts in `ERR` (60_exceptions R190). -/
def ErrKind.code : ErrKind → BitVec 3
  | .invalidMessageLength => 1#3
  | .invalidChecksum => 2#3
  | .unrecognizedContentType _ => 3#3
  | .invalidSource _ => 4#3
  | .fieldsTooLong => 5#3
  | .badCommand => 7#3

/-- The value an outcome puts in `ERRB`: the offending byte, or 0x00 (60_exceptions R190, R197). -/
def ErrKind.info : ErrKind → Byte
  | .invalidMessageLength => 0x00#8
  | .invalidChecksum => 0x00#8
  | .unrecognizedContentType b => b
  | .invalidSource b => b
  | .fieldsTooLong => 0x00#8
  | .badCommand => 0x00#8

/-- The result groups, each with its valid bit (10_state R28). -/
inductive Group where
  | c
  | f
  | o
  | r
  deriving DecidableEq, Repr

/-- The status flags Retransmit, Continuation and ChangeType in `F_STATUS` (10_state R33). -/
def State.statusFlags (s : State) : Status := statusOfByte s.fStatus

/-- A command that succeeds puts 0 in `ERR` and 0x00 in `ERRB` (60_exceptions R190). -/
def State.succeed (s : State) : State := { s with err := 0#3, errb := 0x00#8 }

/-- A free value below `2^LENW`, for a register of that width. -/
def freeLen (draw slot : Nat) : Nat := Config.freeNat draw slot % 2 ^ Config.lenw

/-- A valid bit goes to 0: "Registers of a group whose valid bit is now 0 hold no value" (60_exceptions R197), so each
register of the group takes a free value. Bits of `F_STATUS` that always read 0 stay 0, and `LENW`-bit registers stay
within `LENW` bits (10_state R30, R31). Log entries 4 and 18. -/
def State.lose (s : State) : Group → State
  | .c => { s with
      cValid := false
      csum := BitVec.ofNat 16 (Config.freeNat s.draws 0)
      draws := s.draws + 1 }
  | .f => { s with
      fValid := false
      fLength := BitVec.ofNat 8 (Config.freeNat s.draws 1)
      fOpKind := BitVec.ofNat 2 (Config.freeNat s.draws 2)
      fOpByte := BitVec.ofNat 8 (Config.freeNat s.draws 3)
      fSource := BitVec.ofNat 1 (Config.freeNat s.draws 4)
      fStatus := maskStatus (BitVec.ofNat 8 (Config.freeNat s.draws 5))
      fDoff := freeLen s.draws 6
      fDlen := freeLen s.draws 7
      draws := s.draws + 1 }
  | .o => { s with
      oValid := false
      olen := freeLen s.draws 8
      draws := s.draws + 1 }
  | .r => { s with
      rValid := false
      res := BitVec.ofNat 8 (Config.freeNat s.draws 9)
      resk := BitVec.ofNat 2 (Config.freeNat s.draws 10)
      draws := s.draws + 1 }

end Sys2Proof.Machine
end

