-- ==== Sys2Proof/Machine/Ops.lean ====
section
/-!
DEFINITION. The named operations over buffers and registers: reading and writing one byte (00_scope R12, 20_memory R54),
error entry (60_exceptions R197), the results a command leaves, and loading a message into IBUF (30_encoding R90).

There is no return from an error: an error is not sticky, and the next command overwrites `ERR` and `ERRB` and runs as
if the failed one had never been issued (60_exceptions R199).
-/

namespace Sys2Proof.Machine

/-! ## Buffers -/

/-- `MemRead(S, a, 1)`; `none` when nothing has written the byte since reset. -/
def Mem.read : Mem → Nat → Option Byte
  | [], _ => none
  | cell :: rest, a => if cell.1 = a then some cell.2 else Mem.read rest a

/-- `MemWrite(S, a, 1, v)`, keeping the offsets strictly rising. -/
def Mem.write : Mem → Nat → Byte → Mem
  | [], a, v => [(a, v)]
  | cell :: rest, a, v =>
    if a < cell.1 then (a, v) :: cell :: rest
    else if a = cell.1 then (a, v) :: rest
    else cell :: Mem.write rest a v

/-- The bytes of a list at offsets `a`, `a + 1`, ..., one write each. -/
def Mem.writeList (m : Mem) (a : Nat) : List Byte → Mem
  | [] => m
  | b :: rest => Mem.writeList (m.write a b) (a + 1) rest

/-- The offsets from `lo` on are strictly rising. -/
def Mem.risingFrom : Nat → Mem → Bool
  | _, [] => true
  | lo, cell :: rest => decide (lo ≤ cell.1) && Mem.risingFrom (cell.1 + 1) rest

/-- The canonical form: offsets strictly rising. No entry can equal what an unlisted byte reads as, since an unlisted byte
holds no value. -/
def Mem.wf (m : Mem) : Bool := Mem.risingFrom 0 m

/-! ## Error entry -/

/-- `raise E(info)` (60_exceptions R197): `ERR` and `ERRB` are written, the valid bits of the listed groups go to 0, and
nothing else changes. The groups listed are those the command owns, less C once `CSUM` has been written by it. -/
def State.raise (s : State) (e : ErrKind) (groups : List Group) : State :=
  groups.foldl State.lose { s with err := e.code, errb := e.info }

/-! ## Results -/

/-- The Checksum Engine's result (10_state R29). -/
def State.setCsum (s : State) (c : U16) : State := { s with csum := c, cValid := true }

/-- A table result (10_state R32), with the command's success. -/
def State.setResult (s : State) (res : Byte) (resk : BitVec 2) : State :=
  State.succeed { s with res := res, resk := resk, rValid := true }

/-- The decoded frame (10_state R30, 42_decoder R156). -/
def State.setFrame (s : State) (length opcode : Byte) (source : BitVec 1) (status : Byte) (dlen : Nat) : State :=
  State.succeed { s with
    fLength := length
    fOpKind := kindOfOpcode (opcodeOfByte opcode)
    fOpByte := opcode
    fSource := source
    fStatus := maskStatus status
    fDoff := 4
    fDlen := dlen
    fValid := true }

/-- The emitted frame (20_memory R52, 43_encoder R174): the length byte, the fields, the high and the low checksum byte,
written to OBUF in that order. -/
def State.setOutput (s : State) (fields : List Byte) (check : U16) : State :=
  let k := fields.length
  let sized := s.obuf.write 0 (BitVec.ofNat 8 (k + 1))
  let filled := sized.writeList 1 fields
  let checked := (filled.write (k + 1) (hi8 check)).write (k + 2) (lo8 check)
  State.succeed { s with obuf := checked, olen := k + 3, oValid := true }

/-! ## Loading a message -/

/-- `IBUF <- [b0, b1, ...]`: the bytes at offsets 0, 1, ..., then `ILEN <-` the count (30_encoding R90). -/
def State.loadMessage (s : State) (bytes : List Byte) : State :=
  { s with ibuf := s.ibuf.writeList 0 bytes, ilen := Config.lenTrunc bytes.length }

end Sys2Proof.Machine
end

