-- ==== Sys2Proof/Machine/Operands.lean ====
section
/-!
DEFINITION. The operand forms. A command has no operand fields (30_encoding R88); its operands are registers, read by
name, and the operand list `IBUF[0..ILEN]` (10_state R25, 20_memory R51).
-/

namespace Sys2Proof.Machine

/-- The `n` bytes from offset `a` on; `none` when nothing has written one of them since reset. -/
def Mem.readList (m : Mem) (a : Nat) : Nat → Option (List Byte)
  | 0 => some []
  | n + 1 =>
    match m.read a, Mem.readList m (a + 1) n with
    | some b, some rest => some (b :: rest)
    | _, _ => none

/-- `IBUF[0..ILEN]`: the message of DECODE, the fields of WRAP, the payload of CSUM (20_memory R51). -/
def State.operandBytes (s : State) : Option (List Byte) := s.ibuf.readList 0 s.ilen

/-- `ILEN > MAXMSG`, which CSUM, DECODE and WRAP test first (60_exceptions R196). -/
def State.badLength (s : State) : Bool := Config.tooLong s.ilen

/-- The opcode operand of OPENC: kind in `ARGK`, byte in `ARG`, the byte not read for kinds 0 to 2 (41_enum_tables R133). -/
def State.opcodeOperand (s : State) : OpCode := opcodeOfKind s.argk s.arg

/-- The source operand of SRCENC (41_enum_tables R135). -/
def State.sourceOperand (s : State) : Option Source := sourceOfKind s.argk

end Sys2Proof.Machine
end

