-- ==== Sys2Proof/Machine/ChecksumCommand.lean ====
section
/-!
DEFINITION. The meaning of CSUM (40_checksum R105).
-/

namespace Sys2Proof.Machine

/-- CSUM (40_checksum R105). -/
def execCsum (s : State) : Host.Outcome State Fault Refusal :=
  if s.badLength then .next (s.raise .badCommand [.c])
  else
    match s.operandBytes with
    | none => .fault .unwrittenIbuf
    | some payload => .next (s.setCsum (calcChecksum s.size payload)).succeed

end Sys2Proof.Machine
end

