-- ==== Sys2Proof/Machine/FrameCommands.lean ====
section
/-!
DEFINITION. The meanings of DECODE (42_decoder R156) and WRAP (43_encoder R174), each after its pseudocode.
-/

namespace Sys2Proof.Machine

/-- DECODE from its checksum test on, for the `n >= 4` bytes `m` of the message (42_decoder R156). -/
def State.decodeOperand (s : State) (m : List Byte) : State :=
  let summed := s.setCsum (calcChecksum (byteAt m 0) (payloadOf m))
  if summed.csum ≠ rxChecksum (checksumHi m) (checksumLo m) then summed.raise .invalidChecksum [.f]
  else if m.length < 6 then summed.raise .invalidMessageLength [.f]
  else
    match sourceOfByte (byteAt m 2) with
    | none => summed.raise (.invalidSource (byteAt m 2)) [.f]
    | some source => summed.setFrame (byteAt m 0) (byteAt m 1) (sourceBit source) (byteAt m 3) (m.length - 6)

/-- What the engine does for DECODE (42_decoder R156). -/
def State.runDecode (s : State) : Host.Outcome State Fault Refusal :=
  if s.badLength then .next (s.raise .badCommand [.f, .c])
  else if s.ilen < 4 then .next (s.raise .invalidMessageLength [.f, .c])
  else
    match s.operandBytes with
    | none => .fault .unwrittenIbuf
    | some message => .next (s.decodeOperand message)

/-- DECODE (42_decoder R156). -/
def execDecode (s : State) : Host.Outcome State Fault Refusal := s.runDecode

/-- WRAP once its fields are read (43_encoder R174). -/
def State.wrapOperand (s : State) (fields : List Byte) : State :=
  let check := calcChecksum (BitVec.ofNat 8 (fields.length + 1)) fields
  (s.setCsum check).setOutput fields (neg16 check)

/-- WRAP (43_encoder R174). -/
def execWrap (s : State) : Host.Outcome State Fault Refusal :=
  if s.badLength then .next (s.raise .badCommand [.o, .c])
  else if 253 < s.ilen then .next (s.raise .fieldsTooLong [.o, .c])
  else
    match s.operandBytes with
    | none => .fault .unwrittenIbuf
    | some fields => .next (s.wrapOperand fields)

end Sys2Proof.Machine
end

