-- ==== Sys2Proof/Machine/FrameRows.lean ====
section
/-!
DEFINITION. The meanings of the nine frame rows of the opcode table (30_encoding R80 to R82, R92): an inbound message whose
header holds the row's value. The host writes the message to IBUF and its length to `ILEN` (30_encoding R90) and issues
DECODE (60_exceptions R211); the decoder maps each header field through its table (42_decoder R154). Log entry 11.
-/

namespace Sys2Proof.Machine

/-- An inbound message: loaded into IBUF and decoded. A message longer than IBUF cannot be presented (92 D2). -/
def State.receive (s : State) (message : List Byte) : Host.Outcome State Fault Refusal :=
  if Config.tooLong message.length then .fault .noSuchByte else (s.loadMessage message).runDecode

/-- ACK: opcode byte 0xd0 (30_encoding R80; 41_enum_tables R121). -/
def execAck (length source status : Byte) (rest : List Byte) (s : State) : Host.Outcome State Fault Refusal :=
  s.receive (length :: 0xd0#8 :: source :: status :: rest)

/-- NACK: opcode byte 0xd1 (30_encoding R80; 41_enum_tables R121). -/
def execNack (length source status : Byte) (rest : List Byte) (s : State) : Host.Outcome State Fault Refusal :=
  s.receive (length :: 0xd1#8 :: source :: status :: rest)

/-- DECODE_DATA: opcode byte 0xf3 (30_encoding R80; 41_enum_tables R121). -/
def execDecodeData (length source status : Byte) (rest : List Byte) (s : State) : Host.Outcome State Fault Refusal :=
  s.receive (length :: 0xf3#8 :: source :: status :: rest)

/-- OTHER: any other opcode byte (30_encoding R80, R84; 41_enum_tables R121). -/
def execOther (length opcode source status : Byte) (rest : List Byte) (s : State) :
    Host.Outcome State Fault Refusal :=
  s.receive (length :: opcode :: source :: status :: rest)

/-- SRC_SCANNER: source byte 0x00 (30_encoding R81; 41_enum_tables R124). -/
def execSrcScanner (length opcode status : Byte) (rest : List Byte) (s : State) : Host.Outcome State Fault Refusal :=
  s.receive (length :: opcode :: 0x00#8 :: status :: rest)

/-- SRC_HOST: source byte 0x04 (30_encoding R81; 41_enum_tables R124). -/
def execSrcHost (length opcode status : Byte) (rest : List Byte) (s : State) : Host.Outcome State Fault Refusal :=
  s.receive (length :: opcode :: 0x04#8 :: status :: rest)

/-- ST_RETRANSMIT: status bit 0 (30_encoding R82; 41_enum_tables R127). -/
def execStRetransmit (length opcode source status : Byte) (rest : List Byte) (s : State) :
    Host.Outcome State Fault Refusal :=
  s.receive (length :: opcode :: source :: status :: rest)

/-- ST_CONTINUATION: status bit 1 (30_encoding R82; 41_enum_tables R127). -/
def execStContinuation (length opcode source status : Byte) (rest : List Byte) (s : State) :
    Host.Outcome State Fault Refusal :=
  s.receive (length :: opcode :: source :: status :: rest)

/-- ST_CHANGETYPE: status bit 3 (30_encoding R82; 41_enum_tables R127). -/
def execStChangeType (length opcode source status : Byte) (rest : List Byte) (s : State) :
    Host.Outcome State Fault Refusal :=
  s.receive (length :: opcode :: source :: status :: rest)

end Sys2Proof.Machine
end

