-- ==== Sys2Proof/Machine/TableCommands.lean ====
section
/-!
DEFINITION. The meanings of the six table commands (41_enum_tables R132 to R137).
-/

namespace Sys2Proof.Machine

/-- OPDEC (41_enum_tables R132). -/
def execOpdec (s : State) : Host.Outcome State Fault Refusal :=
  .next (s.setResult s.arg (kindOfOpcode (opcodeOfByte s.arg)))

/-- OPENC (41_enum_tables R133). -/
def execOpenc (s : State) : Host.Outcome State Fault Refusal :=
  .next (s.setResult (byteOfOpcode s.opcodeOperand) s.argk)

/-- SRCDEC (41_enum_tables R134). -/
def execSrcdec (s : State) : Host.Outcome State Fault Refusal :=
  match sourceOfByte s.arg with
  | some source => .next (s.setResult s.arg (kindOfSource source))
  | none => .next (s.raise (.invalidSource s.arg) [.r])

/-- SRCENC (41_enum_tables R135). -/
def execSrcenc (s : State) : Host.Outcome State Fault Refusal :=
  match s.sourceOperand with
  | some source => .next (s.setResult (byteOfSource source) s.argk)
  | none => .next (s.raise .badCommand [.r])

/-- STDEC (41_enum_tables R136). -/
def execStdec (s : State) : Host.Outcome State Fault Refusal :=
  .next (s.setResult (maskStatus s.arg) 0#2)

/-- CTDEC (41_enum_tables R137). -/
def execCtdec (s : State) : Host.Outcome State Fault Refusal :=
  match contentTypeOfByte s.arg with
  | some (.known code _) => .next (s.setResult code 1#2)
  | none => .next (s.raise (.unrecognizedContentType s.arg) [.r])

end Sys2Proof.Machine
end

