-- ==== Sys2Proof/Machine/Dispatch.lean ====
section
/-!
DEFINITION. The meaning of every instruction: one arm per constructor of `Instr`, each one call of its meaning.
-/

namespace Sys2Proof.Machine

def exec (i : Instr) (s : State) : Host.Outcome State Fault Refusal :=
  match i with
  | .ack length source status rest => Sys2Proof.Machine.execAck length source status rest s
  | .nack length source status rest => Sys2Proof.Machine.execNack length source status rest s
  | .decodeData length source status rest => Sys2Proof.Machine.execDecodeData length source status rest s
  | .other length opcode source status rest => Sys2Proof.Machine.execOther length opcode source status rest s
  | .srcScanner length opcode status rest => Sys2Proof.Machine.execSrcScanner length opcode status rest s
  | .srcHost length opcode status rest => Sys2Proof.Machine.execSrcHost length opcode status rest s
  | .stRetransmit length opcode source status rest => Sys2Proof.Machine.execStRetransmit length opcode source status rest s
  | .stContinuation length opcode source status rest => Sys2Proof.Machine.execStContinuation length opcode source status rest s
  | .stChangeType length opcode source status rest => Sys2Proof.Machine.execStChangeType length opcode source status rest s
  | .csum => Sys2Proof.Machine.execCsum s
  | .decode => Sys2Proof.Machine.execDecode s
  | .wrap => Sys2Proof.Machine.execWrap s
  | .opdec => Sys2Proof.Machine.execOpdec s
  | .openc => Sys2Proof.Machine.execOpenc s
  | .srcdec => Sys2Proof.Machine.execSrcdec s
  | .srcenc => Sys2Proof.Machine.execSrcenc s
  | .stdec => Sys2Proof.Machine.execStdec s
  | .ctdec => Sys2Proof.Machine.execCtdec s

end Sys2Proof.Machine
end

