-- ==== Sys2Proof/Machine/Session.lean ====
section
/-!
DEFINITION. Host programs as lists of host steps: the notation and the pseudo-commands of 30_encoding R90 and R91, and the
dispatch of the Session Loop (60_exceptions R211 to R214). The host is outside the block (00_scope R7); these lists are what
it feeds to the machine. Log entry 16.
-/

namespace Sys2Proof.Machine

/-- One byte write each, from offset `a` on. -/
def byteWrites (a : Nat) : List Byte → List Event
  | [] => []
  | b :: rest => .write (.ibuf a) b.toNat :: byteWrites (a + 1) rest

/-- `IBUF <- [b0, b1, ...]`: the byte writes, then `ILEN <-` the count (30_encoding R90). -/
def loadEvents (bytes : List Byte) : List Event := byteWrites 0 bytes ++ [.write .ilen bytes.length]

/-- The pseudo-command `ACK`: `IBUF <- [D0 04 00]` then `WRAP` (30_encoding R91). -/
def ackEvents : List Event := loadEvents [0xd0#8, 0x04#8, 0x00#8] ++ [.write .cmd 0x3]

/-- The pseudo-command `FRAME (kind, b), source, status, data` (30_encoding R91). The host keeps the two encoded bytes in its
variables and writes IBUF after both table commands. -/
def frameEvents (kind : BitVec 2) (b : Byte) (source : BitVec 2) (status : Byte) (data : List Byte) : List Event :=
  [.write .argk kind.toNat, .write .arg b.toNat, .write .cmd 0x5, .keep .x .res,
    .write .argk source.toNat, .write .cmd 0x7, .keep .y .res,
    .put (.ibuf 0) .x, .put (.ibuf 1) .y, .write (.ibuf 2) status.toNat]
    ++ byteWrites 3 data ++ [.write .ilen (data.length + 3), .write .cmd 0x3]

/-- "On each inbound read event the host issues `DECODE` on the bytes of that read" (60_exceptions R211), then looks at the
outcome. -/
def inboundEvents (bytes : List Byte) : List Event := loadEvents bytes ++ [.write .cmd 0x2, .react]

/-- After the DECODE: on success always an Ack, then the data is treated; on failure nothing is sent and the loop goes on
(60_exceptions R211, R212). -/
def State.reactEvents (s : State) : List Event :=
  if s.err = 0#3 then ackEvents ++ [.send, .handleData] else []

/-- Variant A looks the first data byte up as a content type; variant B issues no command (60_exceptions R213). The text
decoding is outside CORE (00_scope R7). -/
def State.dataEvents (s : State) : List Event :=
  match Config.ddPolicy with
  | .a => [.copy .arg (.ibuf s.fDoff), .write .cmd 0x9]
  | .b => []

/-- The frame the host acknowledged is a DecodeData frame (60_exceptions R213). -/
def State.holdsDecodeData (s : State) : Bool := s.fValid && s.fOpKind == 2#2

end Sys2Proof.Machine
end

