-- ==== Sys2Proof/Machine/HostAgent.lean ====
section
/-!
DEFINITION. The host's side of the machine (10_state R20, R38; 70_reset R220, R232): what a host read returns, what a host
write does, one host step, one engine step, and which of the two comes next.
-/

namespace Sys2Proof.Machine

/-- There is no byte at this offset of IBUF or OBUF: it is `MAXMSG` or more (20_memory R50). -/
def outside (offset : Nat) : Bool := Config.tooLong (offset + 1)

/-! ## Reads -/

/-- What a host read of a place that holds no value returns: no specified value (10_state R38, 93 U1). A free value, the
same again as long as no error has drawn new ones. Log entry 5. -/
def State.noValue (s : State) (slot width : Nat) : Nat := Config.freeNat s.draws slot % 2 ^ width

/-- A register of a result group, read: its content when the group's valid bit is 1 (10_state R28, R38). -/
def State.readGroup (s : State) (valid : Bool) (slot width value : Nat) : Nat :=
  if valid then value else s.noValue slot width

/-- An IBUF byte, read by the host; one never written since reset holds no value (10_state R38). -/
def State.readInput (s : State) (offset : Nat) : Nat :=
  match s.ibuf.read offset with
  | some b => b.toNat
  | none => s.noValue (100 + 2 * offset) 8

/-- An OBUF byte, read by the host; one at or above `OLEN`, or with `O_VALID` = 0, holds no value (10_state R38). -/
def State.readOutput (s : State) (offset : Nat) : Nat :=
  match s.obuf.read offset with
  | some b => s.readGroup (s.oValid && decide (offset < s.olen)) (101 + 2 * offset) 8 b.toNat
  | none => s.noValue (101 + 2 * offset) 8

/-- What a host read returns; `none` where there is no such byte (10_state R38). An operand register never written since
reset reads as its reset value, 0: the model's choice, where 93 U1 leaves any value or a fault. Log entry 1. -/
def State.hostRead (s : State) : Port → Option Nat
  | .ilen => some s.ilen
  | .size => some s.size.toNat
  | .arg => some s.arg.toNat
  | .argk => some s.argk.toNat
  | .cmd => some (s.noValue 20 4)
  | .err => some s.err.toNat
  | .errb => some s.errb.toNat
  | .cValid => some s.cValid.toNat
  | .fValid => some s.fValid.toNat
  | .oValid => some s.oValid.toNat
  | .rValid => some s.rValid.toNat
  | .csum => some (s.readGroup s.cValid 21 16 s.csum.toNat)
  | .fLength => some (s.readGroup s.fValid 22 8 s.fLength.toNat)
  | .fOpKind => some (s.readGroup s.fValid 23 2 s.fOpKind.toNat)
  | .fOpByte => some (s.readGroup s.fValid 24 8 s.fOpByte.toNat)
  | .fSource => some (s.readGroup s.fValid 25 1 s.fSource.toNat)
  | .fStatus => some (s.readGroup s.fValid 26 8 s.fStatus.toNat)
  | .fDoff => some (s.readGroup s.fValid 27 Config.lenw s.fDoff)
  | .fDlen => some (s.readGroup s.fValid 28 Config.lenw s.fDlen)
  | .olen => some (s.readGroup s.oValid 29 Config.lenw s.olen)
  | .res => some (s.readGroup s.rValid 30 8 s.res.toNat)
  | .resk => some (s.readGroup s.rValid 31 2 s.resk.toNat)
  | .ibuf offset => if outside offset then none else some (s.readInput offset)
  | .obuf offset => if outside offset then none else some (s.readOutput offset)

/-- The bytes `OBUF[0..OLEN]` as the host reads them (30_encoding R90). -/
def State.outputBytes (s : State) : List Byte :=
  (List.range (s.readGroup s.oValid 29 Config.lenw s.olen)).map (fun a => BitVec.ofNat 8 (s.readOutput a))

/-- What a variable of the host holds (30_encoding R91). -/
def State.hostVar (s : State) : HostVar → Nat
  | .x => s.hostX
  | .y => s.hostY

/-- The host keeps a value in a variable (30_encoding R91). -/
def State.setHostVar (s : State) (var : HostVar) (value : Nat) : State :=
  match var with
  | .x => { s with hostX := value }
  | .y => { s with hostY := value }

/-! ## Writes -/

/-- What a host write does (10_state R25, R26, R38): an operand register or an IBUF byte takes the value, of which the place
keeps the bits it has (log entry 21); a code written to `CMD` is pending; a write to a read-only register or to OBUF changes
nothing. -/
def State.hostWrite (s : State) (port : Port) (value : Nat) : Host.Outcome State Fault Refusal :=
  match port with
  | .ilen => .next { s with ilen := Config.lenTrunc value }
  | .size => .next { s with size := BitVec.ofNat 8 value }
  | .arg => .next { s with arg := BitVec.ofNat 8 value }
  | .argk => .next { s with argk := BitVec.ofNat 2 value }
  | .cmd => .next { s with cmd := some (BitVec.ofNat 4 value) }
  | .ibuf offset =>
    if outside offset then .fault .noSuchByte
    else .next { s with ibuf := s.ibuf.write offset (BitVec.ofNat 8 value) }
  | .obuf offset => if outside offset then .fault .noSuchByte else .next s
  | .err | .errb | .cValid | .fValid | .oValid | .rValid | .csum | .fLength | .fOpKind | .fOpByte | .fSource
  | .fStatus | .fDoff | .fDlen | .olen | .res | .resk => .next s

/-! ## Steps -/

/-- The reset event (70_reset R220): every piece of the spec's state goes to its reset value. The steps still to come, and
what the host and the transport already have, are not CORE's. Log entry 15. -/
def State.resetEvent (s : State) : State :=
  { State.reset with
    events := s.events, rdata := s.rdata, hostX := s.hostX, hostY := s.hostY, sent := s.sent, draws := s.draws }

/-- A message looked at through one header field: the row it matches runs as an instruction. A message that matches no row
of the field (a reserved source byte, no named status bit, no whole header) is received all the same, since DECODE takes
every buffer (42_decoder R150). -/
def State.receiveRow (s : State) (field : Field) (bytes : List Byte) : Host.Outcome State Fault Refusal :=
  match decodeFrame field bytes with
  | .ok i => exec i s
  | .error _ => s.receive bytes

/-- One host step, or a reset. -/
def State.hostStep (s : State) : Event → Host.Outcome State Fault Refusal
  | .write port value => s.hostWrite port value
  | .read port =>
    match s.hostRead port with
    | some v => .next { s with rdata := v }
    | none => .fault .noSuchByte
  | .copy dst src =>
    match s.hostRead src with
    | some v => s.hostWrite dst v
    | none => .fault .noSuchByte
  | .keep var src =>
    match s.hostRead src with
    | some v => .next (s.setHostVar var v)
    | none => .fault .noSuchByte
  | .put dst var => s.hostWrite dst (s.hostVar var)
  | .loopback =>
    if Config.tooLong s.outputBytes.length then .fault .noSuchByte else .next (s.loadMessage s.outputBytes)
  | .send => .next { s with sent := s.sent ++ [s.outputBytes] }
  | .message field bytes => s.receiveRow field bytes
  | .inbound bytes => .next { s with events := inboundEvents bytes ++ s.events }
  | .react => .next { s with events := s.reactEvents ++ s.events }
  | .handleData =>
    if s.holdsDecodeData then
      if s.fDlen = 0 then .refused .emptyDecodeData
      else .next { s with events := s.dataEvents ++ s.events }
    else .next s
  | .timeout => .next s
  | .reset => .next s.resetEvent

/-- The engine's step for a code written to `CMD` (10_state R26): the command it names, or BadCommand for a code that names
none, which "owns no group" (30_encoding R89, 60_exceptions R197). -/
def State.engineStep (s : State) (code : BitVec 4) : Host.Outcome State Fault Refusal :=
  match decodeCommand code with
  | .ok i => exec i s
  | .error _ => .next (s.raise .badCommand [])

/-- One step of the machine. A pending command is executed before the host's next step (10_state R20, R26). With no command
pending and no host step to come nothing happens (70_reset R232; log entry 10). -/
def State.advance (s : State) : Host.Outcome State Fault Refusal :=
  match s.cmd with
  | some code => State.engineStep { s with cmd := none } code
  | none =>
    match s.events with
    | [] => .next s
    | e :: rest => State.hostStep { s with events := rest } e

/-- The state whose next step runs the instruction of an opcode table word: a command's code pending in `CMD`, or a message
as the host's next step with no command before it (log entries 10 and 12). -/
def State.placeWord (s : State) (nbits w : Nat) : State :=
  match tableFormat nbits w with
  | .command => { s with cmd := some (BitVec.ofNat 4 w) }
  | .frame field => { s with cmd := none, events := .message field (tableBytes (.frame field) w) :: s.events }

end Sys2Proof.Machine
end

