-- ==== Sys2Proof/Machine/Step.lean ====
section
/-!
DEFINITION. One step of the machine, and where its next instruction is placed.
-/

namespace Sys2Proof.Machine

/-- One step: the engine's for a pending command, else the host's (10_state R20, R26). -/
def step (s : State) : Host.Outcome State Fault Refusal := s.advance

/-- `s` with the instruction of an opcode table word placed where `step` takes its next one. -/
def State.withFetchWord (s : State) (nbits w : Nat) : State := s.placeWord nbits w

end Sys2Proof.Machine
end

