-- ==== Sys2Proof/Machine/FrameCodec.lean ====
section
/-!
DEFINITION. The Frame Decoder's and the Frame Encoder's functions (layer F): `decode` (42_decoder R150) and `wrap`
(43_encoder R170), on byte lists of any length and no state.
-/

namespace Sys2Proof.Machine

/-- `Frame` (42_decoder R150). -/
structure Frame where
  length : Byte
  opcode : OpCode
  source : Source
  status : Status
  data : List Byte
  deriving DecidableEq, Repr

/-- `DecodeError` (42_decoder R150). -/
inductive DecodeError where
  | invalidMessageLength
  | invalidChecksum
  | invalidSource (b : Byte)
  deriving DecidableEq, Repr

/-- `decode(message)`, steps 1 to 5 in the order of 42_decoder R150 (the order of the tests is R158). -/
def decodeMessage (message : List Byte) : Except DecodeError Frame :=
  if message.length < 4 then .error .invalidMessageLength
  else if calcChecksum (byteAt message 0) (payloadOf message) ≠ rxChecksum (checksumHi message) (checksumLo message) then
    .error .invalidChecksum
  else
    match payloadOf message with
    | opcodeByte :: sourceByte :: statusByte :: data =>
      match sourceOfByte sourceByte with
      | none => .error (.invalidSource sourceByte)
      | some source =>
        .ok ⟨byteAt message 0, opcodeOfByte opcodeByte, source, statusOfByte statusByte, data⟩
    | _ => .error .invalidMessageLength

/-- `wrap(fields)`, defined for at most `MAX_FIELDS` = 253 fields; `none` beyond (43_encoder R170, R173). -/
def wrapFields (fields : List Byte) : Option (List Byte) :=
  if 253 < fields.length then none
  else
    let size := BitVec.ofNat 8 (fields.length + 1)
    let check := txChecksum (calcChecksum size fields)
    some (size :: fields ++ [check.1, check.2])

/-- The fields of a frame built from semantic values (43_encoder R175). -/
def marshal (opcode : OpCode) (source : Source) (status : Status) (data : List Byte) : List Byte :=
  byteOfOpcode opcode :: byteOfSource source :: byteOfStatus status :: data

end Sys2Proof.Machine
end

