-- ==== Sys2Proof/Safety.lean ====
section
/-!
DEFINITION. The terms claims are stated in: what a command leaves alone, when two states agree on what a command reads or
on what it leaves, the invariant every step keeps, and what a safe step is.
-/

namespace Sys2Proof.Machine

/-! ## What is left alone -/

/-- The host's operand registers other than `ILEN`, the pending command, and the model's own record of the host. -/
def State.KeepsHostSide (s t : State) : Prop :=
  t.size = s.size ∧ t.arg = s.arg ∧ t.argk = s.argk ∧ t.cmd = s.cmd ∧ t.events = s.events ∧ t.rdata = s.rdata
    ∧ t.sent = s.sent ∧ t.hostX = s.hostX ∧ t.hostY = s.hostY

/-- `ILEN` and every byte of IBUF. -/
def State.KeepsInput (s t : State) : Prop := t.ilen = s.ilen ∧ ∀ a, t.ibuf.read a = s.ibuf.read a

/-- A result group with its valid bit (10_state R28); every byte of OBUF goes with group O. -/
def Group.Kept (s t : State) : Group → Prop
  | .c => t.cValid = s.cValid ∧ t.csum = s.csum
  | .f => t.fValid = s.fValid ∧ t.fLength = s.fLength ∧ t.fOpKind = s.fOpKind ∧ t.fOpByte = s.fOpByte
      ∧ t.fSource = s.fSource ∧ t.fStatus = s.fStatus ∧ t.fDoff = s.fDoff ∧ t.fDlen = s.fDlen
  | .o => t.oValid = s.oValid ∧ t.olen = s.olen ∧ ∀ a, t.obuf.read a = s.obuf.read a
  | .r => t.rValid = s.rValid ∧ t.res = s.res ∧ t.resk = s.resk

/-- Nothing but `ERR`, `ERRB` and the listed groups differs (and the model's draw counter). -/
def State.KeepsAllBut (s : State) (groups : List Group) (t : State) : Prop :=
  s.KeepsHostSide t ∧ s.KeepsInput t ∧ ∀ g, g ∉ groups → Group.Kept s t g

/-- The groups a command owns (60_exceptions R197); a frame row is a DECODE. -/
def owns : Instr → List Group
  | .ack _ _ _ _ => [.f, .c]
  | .nack _ _ _ _ => [.f, .c]
  | .decodeData _ _ _ _ => [.f, .c]
  | .other _ _ _ _ _ => [.f, .c]
  | .srcScanner _ _ _ _ => [.f, .c]
  | .srcHost _ _ _ _ => [.f, .c]
  | .stRetransmit _ _ _ _ _ => [.f, .c]
  | .stContinuation _ _ _ _ _ => [.f, .c]
  | .stChangeType _ _ _ _ _ => [.f, .c]
  | .csum => [.c]
  | .decode => [.f, .c]
  | .wrap => [.o, .c]
  | .opdec => [.r]
  | .openc => [.r]
  | .srcdec => [.r]
  | .srcenc => [.r]
  | .stdec => [.r]
  | .ctdec => [.r]

/-! ## What a command reads and what it leaves (10_state R24) -/

/-- Two states agree on `ILEN` and on `IBUF[0..ILEN]`. -/
def State.SameBuffer (s s' : State) : Prop := s'.ilen = s.ilen ∧ ∀ a < s.ilen, s'.ibuf.read a = s.ibuf.read a

/-- Two states agree on the operands an instruction names (30_encoding R88). A frame row brings its whole message with it. -/
def State.SameOperands (s s' : State) : Instr → Prop
  | .ack _ _ _ _ => True
  | .nack _ _ _ _ => True
  | .decodeData _ _ _ _ => True
  | .other _ _ _ _ _ => True
  | .srcScanner _ _ _ _ => True
  | .srcHost _ _ _ _ => True
  | .stRetransmit _ _ _ _ _ => True
  | .stContinuation _ _ _ _ _ => True
  | .stChangeType _ _ _ _ _ => True
  | .csum => s'.size = s.size ∧ s.SameBuffer s'
  | .decode => s.SameBuffer s'
  | .wrap => s.SameBuffer s'
  | .opdec => s'.arg = s.arg
  | .openc => s'.argk = s.argk ∧ (s.argk = 3#2 → s'.arg = s.arg)
  | .srcdec => s'.arg = s.arg
  | .srcenc => s'.argk = s.argk
  | .stdec => s'.arg = s.arg
  | .ctdec => s'.arg = s.arg

/-- Two states agree on a result group: on its valid bit, and where that is 1 on what the group holds. -/
def Group.SameResult (t t' : State) : Group → Prop
  | .c => t'.cValid = t.cValid ∧ (t.cValid = true → t'.csum = t.csum)
  | .f => t'.fValid = t.fValid ∧ (t.fValid = true → t'.fLength = t.fLength ∧ t'.fOpKind = t.fOpKind
      ∧ t'.fOpByte = t.fOpByte ∧ t'.fSource = t.fSource ∧ t'.fStatus = t.fStatus ∧ t'.fDoff = t.fDoff
      ∧ t'.fDlen = t.fDlen)
  | .o => t'.oValid = t.oValid ∧ (t.oValid = true → t'.olen = t.olen
      ∧ ∀ a < t.olen, t'.obuf.read a = t.obuf.read a)
  | .r => t'.rValid = t.rValid ∧ (t.rValid = true → t'.res = t.res ∧ t'.resk = t.resk)

/-- Two outcomes of one instruction are the same result: both stop for the same reason, or both go on with the same
outcome code and the same content of every group the instruction owns. -/
def SameOutcome (i : Instr) : Host.Outcome State Fault Refusal → Host.Outcome State Fault Refusal → Prop
  | .next t, .next t' => t'.err = t.err ∧ t'.errb = t.errb ∧ ∀ g ∈ owns i, Group.SameResult t t' g
  | .fault r, .fault r' => r' = r
  | .refused r, .refused r' => r' = r
  | _, _ => False

/-! ## Messages and frames -/

/-- A message DECODE succeeds on (42_decoder R157) and that fits IBUF. -/
def Decodable (m : List Byte) : Prop :=
  6 ≤ m.length ∧ m.length ≤ Config.maxMsg ∧ checksumOk m = true ∧ (byteAt m 2 = 0x00#8 ∨ byteAt m 2 = 0x04#8)

/-- The registers after a successful DECODE of the message (10_state R30, 42_decoder R156). -/
def State.ShowsFrame (t : State) (m : List Byte) : Prop :=
  t.err = 0#3 ∧ t.errb = 0x00#8 ∧ t.fValid = true ∧ t.fLength = byteAt m 0
    ∧ t.fOpKind = kindOfOpcode (opcodeOfByte (byteAt m 1)) ∧ t.fOpByte = byteAt m 1
    ∧ t.fSource = (if byteAt m 2 = 0x00#8 then 0#1 else 1#1) ∧ t.fStatus = byteAt m 3 &&& 0x0B#8
    ∧ t.fDoff = 4 ∧ t.fDlen = m.length - 6
    ∧ t.cValid = true ∧ t.csum = calcChecksum (byteAt m 0) (payloadOf m)

/-- The outcome kind of an error of `decode` (60_exceptions R190). -/
def DecodeError.kind : DecodeError → ErrKind
  | .invalidMessageLength => .invalidMessageLength
  | .invalidChecksum => .invalidChecksum
  | .invalidSource b => .invalidSource b

/-! ## The invariant -/

/-- What holds at reset and after every step, whatever the host does. -/
structure State.Inv (s : State) : Prop where
  /-- IBUF is in its canonical form. -/
  ibuf_wf : s.ibuf.wf = true
  /-- OBUF is in its canonical form. -/
  obuf_wf : s.obuf.wf = true
  /-- No byte of IBUF outside 0 to `MAXMSG - 1` exists (10_state R34). -/
  ibuf_inside : ∀ cell ∈ s.ibuf, cell.1 < Config.maxMsg
  /-- No byte of OBUF outside 0 to `MAXMSG - 1` exists (10_state R35). -/
  obuf_inside : ∀ cell ∈ s.obuf, cell.1 < Config.maxMsg
  /-- The length and offset registers are `LENW` bits wide (10_state R25, R30, R31). -/
  lengths : s.ilen < 2 ^ Config.lenw ∧ s.fDoff < 2 ^ Config.lenw ∧ s.fDlen < 2 ^ Config.lenw ∧ s.olen < 2 ^ Config.lenw
  /-- Bits 7, 6, 5, 4 and 2 of `F_STATUS` always read 0 (10_state R30). -/
  status_bits : s.fStatus &&& 0xF4#8 = 0#8
  /-- Code 6 is never produced (60_exceptions R190). -/
  err_code : s.err ≠ 6#3
  /-- `ERRB` holds a byte only for `UnrecognizedContentType` and `InvalidSource` (10_state R27). -/
  err_byte : s.err ≠ 3#3 → s.err ≠ 4#3 → s.errb = 0x00#8
  /-- A decoded frame's opcode kind is that of its byte, and its data lies inside IBUF (10_state R30). -/
  frame_group : s.fValid = true →
    s.fOpKind = kindOfOpcode (opcodeOfByte s.fOpByte) ∧ s.fDoff = 4 ∧ s.fDoff + s.fDlen + 2 ≤ Config.maxMsg
  /-- With `O_VALID` = 1, `OBUF[0..OLEN]` is the frame `wrap` gives for some fields (10_state R35, 43_encoder R170). -/
  output_group : s.oValid = true →
    ∃ fields frame, wrapFields fields = some frame ∧ s.obuf.readList 0 s.olen = some frame

/-! ## Several steps -/

/-- The state after a number of steps, or the first stop on the way. -/
def runSteps : Nat → State → Host.Outcome State Fault Refusal
  | 0, s => .next s
  | n + 1, s =>
    match step s with
    | .next t => runSteps n t
    | .fault r => .fault r
    | .refused r => .refused r

/-! ## Safe steps -/

/-- A step is safe when it answers a next state: no model-level fault (60_exceptions R207) and no refusal. -/
def State.SafeStep (s : State) : Prop := ∃ t, step s = .next t

/-- The host has written every IBUF byte the pending command would read (70_reset R223). -/
def State.OperandsWritten (s : State) : Prop := ∀ a < s.ilen, (s.ibuf.read a).isSome = true

end Sys2Proof.Machine
end

