-- ==== Sys2Proof/Certificates/Slice0/Obligations.lean ====
section
/-!
DEFINITION. The statements for the provers, from the spec's numbered rules. OBLIGATIONS.json lists them with their tier and
the rules they cite. Each statement with hypotheses has its witness in Sys2Proof/Tests/Slice0.lean.
-/

open Sys2Proof Sys2Proof.Machine

/-! ## Encoding -/

/-- Decoding an encoded well-formed instruction gives it back, for every instruction and every operand. -/
def Obligations.DecodeOfEncode : Prop :=
  ∀ i : Instr, i.wellFormed = true → decodeBytes (formatOf i) (encode i) = .ok i

/-- Bytes that decode under a format are exactly the encoding of the instruction they decode to, and belong to that format:
no bit is dropped and no encoding falls through to a neighbour. If they fit IBUF the instruction is well-formed. -/
def Obligations.EncodeOfDecode : Prop :=
  ∀ (format : Format) (bytes : List Byte) (i : Instr), decodeBytes format bytes = .ok i →
    encode i = bytes ∧ formatOf i = format ∧ (bytes.length ≤ Config.maxMsg → i.wellFormed = true)

/-- The decoder agrees with the opcode table's masks (30_encoding R92): under each header field, the instruction decoded is
the first row of that field with `H & mask = match`, and nothing is decoded exactly when no row matches. -/
def Obligations.FrameRowsFollowMasks : Prop :=
  ∀ (field : Field) (length opcode source status : Byte) (rest : List Byte),
    match decodeFrame field (length :: opcode :: source :: status :: rest) with
    | .ok i => rowOf field (headerWord length opcode source status) = some (mnemonicOf i)
    | .error _ => rowOf field (headerWord length opcode source status) = none

/-- The nine command codes and the seven unassigned ones (30_encoding R88, R89). -/
def Obligations.CommandCodes : Prop :=
  decodeCommand 0x1#4 = .ok .csum ∧ decodeCommand 0x2#4 = .ok .decode ∧ decodeCommand 0x3#4 = .ok .wrap
    ∧ decodeCommand 0x4#4 = .ok .opdec ∧ decodeCommand 0x5#4 = .ok .openc ∧ decodeCommand 0x6#4 = .ok .srcdec
    ∧ decodeCommand 0x7#4 = .ok .srcenc ∧ decodeCommand 0x8#4 = .ok .stdec ∧ decodeCommand 0x9#4 = .ok .ctdec
    ∧ ∀ code : BitVec 4, (∃ e, decodeCommand code = .error e) ↔ code = 0x0#4 ∨ 0xA ≤ code.toNat

/-- Words written out from the spec: the WRAP code of 30_encoding R88; the acknowledgment `04 D0 04 00 FF 28` of
43_encoder R175 and the messages V41, V43 of 95_test_vectors read through their header fields. -/
def Obligations.SpecWordsDecode : Prop :=
  decodeBytes .command [0x03#8] = .ok .wrap
    ∧ decodeBytes (.frame .opcode) [0x04#8, 0xD0#8, 0x04#8, 0x00#8, 0xFF#8, 0x28#8]
        = .ok (.ack 0x04#8 0x04#8 0x00#8 [0xFF#8, 0x28#8])
    ∧ decodeBytes (.frame .source) [0x04#8, 0xD0#8, 0x04#8, 0x00#8, 0xFF#8, 0x28#8]
        = .ok (.srcHost 0x04#8 0xD0#8 0x00#8 [0xFF#8, 0x28#8])
    ∧ decodeBytes (.frame .status) [0x04#8, 0xD1#8, 0x00#8, 0x01#8, 0xFF#8, 0x2A#8]
        = .ok (.stRetransmit 0x04#8 0xD1#8 0x00#8 0x01#8 [0xFF#8, 0x2A#8])
    ∧ decodeBytes (.frame .opcode) [0x05#8, 0xC6#8, 0x04#8, 0x08#8, 0x01#8, 0xFF#8, 0x28#8]
        = .ok (.other 0x05#8 0xC6#8 0x04#8 0x08#8 [0x01#8, 0xFF#8, 0x28#8])
    ∧ decodeBytes (.frame .source) [0x04#8, 0xD0#8, 0x01#8, 0x00#8, 0xFF#8, 0x2B#8] = .error (.reservedSource 0x01#8)

/-! ## What one step runs -/

/-- A step runs the decoded command: with a code pending that names a command, the step is that command executed on the
state with nothing pending (10_state R26). -/
def Obligations.StepRunsPendingCommand : Prop :=
  ∀ (s : State) (code : BitVec 4) (i : Instr), s.cmd = some code → decodeCommand code = .ok i →
    step s = exec i { s with cmd := none }

/-- A step runs the decoded frame row: with no command pending and an inbound message as the host's next step, the step is
the row's instruction executed on the state with that host step taken off the list (the model's event list, log entries 10
and 11). -/
def Obligations.StepRunsInboundMessage : Prop :=
  ∀ (s : State) (field : Field) (bytes : List Byte) (rest : List Event) (i : Instr),
    s.cmd = none → s.events = .message field bytes :: rest → decodeFrame field bytes = .ok i →
    step s = exec i { s with events := rest }

/-- A code that names no command: BadCommand, and nothing changes but `ERR` and `ERRB` (30_encoding R89). -/
def Obligations.UnassignedCodeIsBadCommand : Prop :=
  ∀ (s : State) (code : BitVec 4), s.cmd = some code → (code = 0x0#4 ∨ 0xA ≤ code.toNat) →
    step s = .next { s with cmd := none, err := 7#3, errb := 0x00#8 }

/-- A frame row does what DECODE does on its message once the host has loaded it, and a message that does not fit IBUF
cannot be presented (92 D2; the model's meaning of a frame row, log entry 11). -/
def Obligations.FrameRowIsDecodeOfItsMessage : Prop :=
  ∀ (s : State) (i : Instr), formatOf i ≠ .command →
    (exec i s = if (encode i).length ≤ Config.maxMsg then exec .decode (s.loadMessage (encode i)) else .fault .noSuchByte)
      ∧ ((encode i).length ≤ Config.maxMsg → (s.loadMessage (encode i)).ilen = (encode i).length
          ∧ (s.loadMessage (encode i)).operandBytes = some (encode i))

/-! ## The Checksum Engine -/

/-- CSUM (40_checksum R105). -/
def Obligations.CsumCommand : Prop :=
  decodeCommand 0x1#4 = .ok .csum ∧
  ∀ s : State,
    (∀ payload, s.ilen ≤ Config.maxMsg → s.operandBytes = some payload →
      ∃ t, exec .csum s = .next t ∧ t.csum.toNat = (s.size.toNat + sumBytes payload) % 65536 ∧ t.cValid = true
        ∧ t.err = 0#3 ∧ t.errb = 0x00#8 ∧ s.KeepsAllBut [.c] t) ∧
    (s.ilen = 0 → ∃ t, exec .csum s = .next t ∧ t.csum = zext16 s.size) ∧
    (Config.maxMsg < s.ilen → ∃ t, exec .csum s = .next t ∧ t.cValid = false ∧ t.err = 7#3 ∧ t.errb = 0x00#8
      ∧ s.KeepsAllBut [.c] t)

/-- The byte-serial and the 8-bit-adder forms give the value of `calc_checksum` for every input (40_checksum R101). -/
def Obligations.SerialFormsAgree : Prop :=
  ∀ (size : Byte) (payload : List Byte), serialChecksum size payload = calcChecksum size payload
    ∧ be16 (splitChecksum size payload).1 (splitChecksum size payload).2 = calcChecksum size payload

/-- `rx_checksum` is the negation of the big-endian value, for every pair of bytes, and wraps at 0x8000
(40_checksum R102). -/
def Obligations.RxChecksumNegates : Prop :=
  (∀ hi lo : Byte, rxChecksum hi lo = neg16 (be16 hi lo)
    ∧ (rxChecksum hi lo).toNat = (65536 - (hi.toNat * 256 + lo.toNat)) % 65536)
  ∧ rxChecksum 0x80#8 0x00#8 = 0x8000#16

/-- `neg16` is its own inverse, so the receiver recovers the checksum the sender negated; the emitted bytes are its high and
its low byte, in that order; and the negation table (40_checksum R104, R110). -/
def Obligations.NegationIsItsOwnInverse : Prop :=
  (∀ v : U16, neg16 (neg16 v) = v)
  ∧ (∀ c : U16, txChecksum c = (hi8 (neg16 c), lo8 (neg16 c)) ∧ be16 (txChecksum c).1 (txChecksum c).2 = neg16 c
      ∧ rxChecksum (txChecksum c).1 (txChecksum c).2 = c)
  ∧ txChecksum 0x0000#16 = (0x00#8, 0x00#8) ∧ txChecksum 0x8000#16 = (0x80#8, 0x00#8)
  ∧ rxChecksum 0x00#8 0x00#8 = 0x0000#16 ∧ rxChecksum 0x00#8 0x01#8 = 0xFFFF#16 ∧ rxChecksum 0x7F#8 0xFF#8 = 0x8001#16
  ∧ rxChecksum 0x80#8 0x00#8 = 0x8000#16 ∧ rxChecksum 0x80#8 0x01#8 = 0x7FFF#16 ∧ rxChecksum 0xFF#8 0xFF#8 = 0x0001#16
  ∧ rxChecksum 0xFE#8 0xC6#8 = 0x013A#16

/-- Order independence (40_checksum R107), and its consequence: a count moved from one payload byte to another is not seen. -/
def Obligations.ChecksumIgnoresOrder : Prop :=
  (∀ (size : Byte) (p q : List Byte), p.Perm q → calcChecksum size p = calcChecksum size q)
  ∧ (∀ (size : Byte) (p q : List Byte),
    (calcChecksum size (p ++ q)).toNat = ((calcChecksum size p).toNat + sumBytes q) % 65536)
  ∧ ∀ (size x y d : Byte) (p q r : List Byte), x.toNat + d.toNat < 256 → d.toNat ≤ y.toNat →
    calcChecksum size (p ++ (x + d) :: q ++ (y - d) :: r) = calcChecksum size (p ++ x :: q ++ y :: r)

/-- Range (40_checksum R108, 43_encoder R179): no wrap-around up to 256 operands, none in any frame of the encoder's domain;
the first wrap-around is at 257 bytes of 0xFF. -/
def Obligations.ChecksumRange : Prop :=
  (∀ (size : Byte) (p : List Byte), size.toNat + sumBytes p ≤ 255 + 255 * p.length)
  ∧ (∀ (size : Byte) (p : List Byte), p.length ≤ 256 → (calcChecksum size p).toNat = size.toNat + sumBytes p)
  ∧ calcChecksum 0xFF#8 (List.replicate 257 0xFF#8) = 0x00FE#16
  ∧ ∀ p : List Byte, p.length ≤ 253 → p.length + 1 + sumBytes p ≤ 64769

/-- The equivalent test (40_checksum R111). -/
def Obligations.ChecksumOkIffSumVanishes : Prop :=
  ∀ m : List Byte, 3 ≤ m.length →
    (checksumOk m = true ↔
      ((byteAt m 0).toNat + sumBytes (payloadOf m) + 256 * (checksumHi m).toNat + (checksumLo m).toNat) % 65536 = 0)

/-! ## The Enumeration Tables -/

/-- OPDEC (41_enum_tables R132): all 256 bytes succeed, exactly three with a kind other than 3. -/
def Obligations.OpdecCommand : Prop :=
  decodeCommand 0x4#4 = .ok .opdec ∧
  ∀ s : State, ∃ t, exec .opdec s = .next t
    ∧ t.resk = (if s.arg = 0xd0#8 then 0#2 else if s.arg = 0xd1#8 then 1#2 else if s.arg = 0xf3#8 then 2#2 else 3#2)
    ∧ t.res = s.arg ∧ t.rValid = true ∧ t.err = 0#3 ∧ t.errb = 0x00#8 ∧ s.KeepsAllBut [.r] t

/-- OPENC (41_enum_tables R133); a later OPDEC of the byte of the non-canonical `Other(0xd0)` gives kind 0. -/
def Obligations.OpencCommand : Prop :=
  decodeCommand 0x5#4 = .ok .openc ∧
  (∀ s : State, ∃ t, exec .openc s = .next t
    ∧ t.res = (if s.argk = 0#2 then 0xd0#8 else if s.argk = 1#2 then 0xd1#8 else if s.argk = 2#2 then 0xf3#8 else s.arg)
    ∧ t.resk = s.argk ∧ t.rValid = true ∧ t.err = 0#3 ∧ t.errb = 0x00#8 ∧ s.KeepsAllBut [.r] t) ∧
  ∀ s : State, s.argk = 3#2 → s.arg = 0xd0#8 → ∃ t u, exec .openc s = .next t
    ∧ exec .opdec { t with arg := t.res } = .next u ∧ u.resk = 0#2

/-- SRCDEC (41_enum_tables R134): 0x00 and 0x04 succeed, every other byte is InvalidSource carrying it. -/
def Obligations.SrcdecCommand : Prop :=
  decodeCommand 0x6#4 = .ok .srcdec ∧
  ∀ s : State,
    (s.arg = 0x00#8 ∨ s.arg = 0x04#8 → ∃ t, exec .srcdec s = .next t
      ∧ t.resk = (if s.arg = 0x00#8 then 0#2 else 1#2) ∧ t.res = s.arg ∧ t.rValid = true ∧ t.err = 0#3
      ∧ t.errb = 0x00#8 ∧ s.KeepsAllBut [.r] t) ∧
    (s.arg ≠ 0x00#8 ∧ s.arg ≠ 0x04#8 → ∃ t, exec .srcdec s = .next t
      ∧ t.rValid = false ∧ t.err = 4#3 ∧ t.errb = s.arg ∧ s.KeepsAllBut [.r] t)

/-- SRCENC (41_enum_tables R135): `ARG` is not read; `ARGK` of 2 or 3 names no source. -/
def Obligations.SrcencCommand : Prop :=
  decodeCommand 0x7#4 = .ok .srcenc ∧
  ∀ s : State,
    (s.argk.toNat < 2 → ∃ t, exec .srcenc s = .next t
      ∧ t.res = (if s.argk = 0#2 then 0x00#8 else 0x04#8) ∧ t.resk = s.argk ∧ t.rValid = true ∧ t.err = 0#3
      ∧ t.errb = 0x00#8 ∧ s.KeepsAllBut [.r] t) ∧
    (2 ≤ s.argk.toNat → ∃ t, exec .srcenc s = .next t
      ∧ t.rValid = false ∧ t.err = 7#3 ∧ t.errb = 0x00#8 ∧ s.KeepsAllBut [.r] t)

/-- STDEC (41_enum_tables R136): the byte masked with 0x0B; it never fails. -/
def Obligations.StdecCommand : Prop :=
  decodeCommand 0x8#4 = .ok .stdec ∧
  ∀ s : State, ∃ t, exec .stdec s = .next t
    ∧ t.res = s.arg &&& 0x0B#8 ∧ t.resk = 0#2 ∧ t.rValid = true ∧ t.err = 0#3 ∧ t.errb = 0x00#8
    ∧ s.KeepsAllBut [.r] t

/-- CTDEC (41_enum_tables R137): a member of `CT_SET` is known, every other byte unrecognized; 0x00, 0x33, 0x41 and 0xe2 to
0xff are unrecognized for every admissible set. -/
def Obligations.CtdecCommand : Prop :=
  decodeCommand 0x9#4 = .ok .ctdec ∧
  (∀ s : State, ∃ t, exec .ctdec s = .next t ∧ s.KeepsAllBut [.r] t
    ∧ if Config.ctSet s.arg = true then t.res = s.arg ∧ t.resk = 1#2 ∧ t.rValid = true ∧ t.err = 0#3 ∧ t.errb = 0x00#8
      else t.rValid = false ∧ t.err = 3#3 ∧ t.errb = s.arg) ∧
  ∀ b : Byte, b = 0x00#8 ∨ b = 0x33#8 ∨ b = 0x41#8 ∨ 0xe2 ≤ b.toNat → Config.ctSet b = false

/-- OpCode round trip (41_enum_tables R138). -/
def Obligations.OpcodeRoundTrip : Prop :=
  (∀ b : Byte, byteOfOpcode (opcodeOfByte b) = b)
  ∧ ∀ o : OpCode, opcodeOfByte (byteOfOpcode o) =
      if o = .other 0xd0#8 then .ack else if o = .other 0xd1#8 then .nack else if o = .other 0xf3#8 then .decodeData else o

/-- Source round trip (41_enum_tables R139). -/
def Obligations.SourceRoundTrip : Prop :=
  (∀ s : Source, sourceOfByte (byteOfSource s) = some s)
  ∧ ∀ (b : Byte) (s : Source), sourceOfByte b = some s → byteOfSource s = b

/-- Status truncation is idempotent and lossy (41_enum_tables R127, R140). -/
def Obligations.StatusTruncation : Prop :=
  (∀ f : Status, statusOfByte (byteOfStatus f) = f)
  ∧ (∀ b : Byte, byteOfStatus (statusOfByte b) = b &&& 0x0B#8)
  ∧ (∀ b : Byte, b &&& 0xF4#8 ≠ 0#8 → byteOfStatus (statusOfByte b) ≠ b)
  ∧ ∀ b : Byte, statusOfByte (b &&& 0x0B#8) = statusOfByte b

/-! ## The Frame Decoder -/

/-- The order of the failure tests of `decode` (42_decoder R158); the five cases exclude each other. -/
def Obligations.DecodeFailureOrder : Prop :=
  ∀ m : List Byte,
    (m.length < 4 → decodeMessage m = .error .invalidMessageLength) ∧
    (4 ≤ m.length → checksumOk m = false → decodeMessage m = .error .invalidChecksum) ∧
    (4 ≤ m.length → m.length < 6 → checksumOk m = true → decodeMessage m = .error .invalidMessageLength) ∧
    (6 ≤ m.length → checksumOk m = true → byteAt m 2 ≠ 0x00#8 → byteAt m 2 ≠ 0x04#8 →
      decodeMessage m = .error (.invalidSource (byteAt m 2))) ∧
    (6 ≤ m.length → checksumOk m = true → byteAt m 2 = 0x00#8 ∨ byteAt m 2 = 0x04#8 →
      ∃ frame, decodeMessage m = .ok frame)

/-- What a successful `decode` returns (42_decoder R155), whatever the length byte is (R157). -/
def Obligations.DecodeReturnsTheFields : Prop :=
  ∀ m : List Byte, 6 ≤ m.length → checksumOk m = true → ∀ source : Source, byteAt m 2 = byteOfSource source →
    decodeMessage m = .ok ⟨byteAt m 0, opcodeOfByte (byteAt m 1), source, statusOfByte (byteAt m 3), slice m 4 (m.length - 2)⟩
      ∧ (slice m 4 (m.length - 2)).length = m.length - 6

/-- The length guard (42_decoder R160): no message shorter than 6 bytes decodes, and which error it is. -/
def Obligations.ShortMessagesNeverDecode : Prop :=
  ∀ m : List Byte, m.length < 6 →
    decodeMessage m =
      if m.length < 4 ∨ checksumOk m = true then .error .invalidMessageLength else .error .invalidChecksum

/-- Single-bit sensitivity (40_checksum R109, 42_decoder R161): every byte of a message is its length byte, a payload byte or
a checksum byte, and flipping any one bit of any of them in a message that decodes gives InvalidChecksum. Two flips may go
unnoticed: bit 0 of both data bytes 41 and 42 of V63 of 95_test_vectors. -/
def Obligations.SingleBitFlipIsCaught : Prop :=
  (∀ (m : List Byte) (frame : Frame), decodeMessage m = .ok frame → ∀ i < m.length, ∀ k < 8,
    decodeMessage (m.set i (byteAt m i ^^^ BitVec.ofNat 8 (2 ^ k))) = .error .invalidChecksum)
  ∧ (∃ frame, decodeMessage [0x07#8, 0xF3#8, 0x00#8, 0x02#8, 0x03#8, 0x41#8, 0x42#8, 0xFE#8, 0x7E#8] = .ok frame)
  ∧ ∃ frame, decodeMessage [0x07#8, 0xF3#8, 0x00#8, 0x02#8, 0x03#8, 0x40#8, 0x43#8, 0xFE#8, 0x7E#8] = .ok frame

/-- The document's example and the all-zero message decode although their length bytes do not fit them (42_decoder R157). -/
def Obligations.LengthByteIsNotChecked : Prop :=
  decodeMessage [0x06#8, 0xF3#8, 0x00#8, 0x00#8, 0x41#8, 0xFE#8, 0xC6#8]
      = .ok ⟨0x06#8, .decodeData, .scanner, ⟨false, false, false⟩, [0x41#8]⟩
    ∧ decodeMessage [0x00#8, 0x00#8, 0x00#8, 0x00#8, 0x00#8, 0x00#8]
      = .ok ⟨0x00#8, .other 0x00#8, .scanner, ⟨false, false, false⟩, []⟩

/-- DECODE (42_decoder R156): the command leaves in the registers what `decode` gives for the message, with the codes of
60_exceptions R190. That the second clause asks for no written byte is the model's reading (log entry 23). -/
def Obligations.DecodeCommand : Prop :=
  decodeCommand 0x2#4 = .ok .decode ∧
  ∀ s : State,
    (Config.maxMsg < s.ilen → ∃ t, exec .decode s = .next t
      ∧ t.err = 7#3 ∧ t.errb = 0x00#8 ∧ t.fValid = false ∧ t.cValid = false ∧ s.KeepsAllBut [.f, .c] t) ∧
    (s.ilen < 4 → ∃ t, exec .decode s = .next t
      ∧ t.err = 1#3 ∧ t.errb = 0x00#8 ∧ t.fValid = false ∧ t.cValid = false ∧ s.KeepsAllBut [.f, .c] t) ∧
    (∀ m, 4 ≤ s.ilen → s.ilen ≤ Config.maxMsg → s.operandBytes = some m → ∃ t, exec .decode s = .next t
      ∧ t.cValid = true ∧ t.csum = calcChecksum (byteAt m 0) (payloadOf m) ∧ s.KeepsAllBut [.f, .c] t
      ∧ match decodeMessage m with
        | .ok frame => t.ShowsFrame m ∧ t.fLength = frame.length
            ∧ t.fOpKind = kindOfOpcode frame.opcode ∧ t.fOpByte = byteOfOpcode frame.opcode
            ∧ t.fSource = sourceBit frame.source ∧ t.fStatus = byteOfStatus frame.status
            ∧ t.fDlen = frame.data.length
            ∧ t.ibuf.readList t.fDoff t.fDlen = some frame.data
        | .error .invalidMessageLength => t.err = 1#3 ∧ t.errb = 0x00#8 ∧ t.fValid = false
        | .error .invalidChecksum => t.err = 2#3 ∧ t.errb = 0x00#8 ∧ t.fValid = false
        | .error (.invalidSource b) => t.err = 4#3 ∧ t.errb = b ∧ t.fValid = false)

/-! ## The Frame Encoder -/

/-- Round trip (43_encoder R176); the status comes back masked; with no premise but the domain the checksum test passes. -/
def Obligations.WrapThenDecode : Prop :=
  (∀ (opcode status : Byte) (source : Source) (data : List Byte), data.length ≤ 250 →
    ∃ frame, wrapFields (opcode :: byteOfSource source :: status :: data) = some frame
      ∧ decodeMessage frame = .ok ⟨BitVec.ofNat 8 (data.length + 4), opcodeOfByte opcode, source, statusOfByte status, data⟩
      ∧ byteOfStatus (statusOfByte status) = status &&& 0x0B#8)
  ∧ ∀ fields frame : List Byte, 1 ≤ fields.length → wrapFields fields = some frame → checksumOk frame = true

/-- What holds of every frame in the encoder's domain (43_encoder R171, R172): its length byte is its length less 2, its
checksum verifies, and the received checksum is the computed one. -/
def Obligations.WrappedFrameVerifies : Prop :=
  ∀ fields : List Byte, fields.length ≤ 253 → ∃ frame, wrapFields fields = some frame
    ∧ frame.length = fields.length + 3 ∧ (byteAt frame 0).toNat = frame.length - 2 ∧ checksumOk frame = true
    ∧ payloadOf frame = fields
    ∧ rxChecksum (checksumHi frame) (checksumLo frame) = calcChecksum (BitVec.ofNat 8 (fields.length + 1)) fields

/-- The domain (43_encoder R173): `wrap` gives nothing beyond 253 fields. -/
def Obligations.WrapDomain : Prop :=
  ∀ fields : List Byte, wrapFields fields = none ↔ 253 < fields.length

/-- `wrap` validates nothing (43_encoder R177): it emits the fields as they are, whatever they are, and emits frames that
`decode` rejects. -/
def Obligations.WrapValidatesNothing : Prop :=
  (∀ fields : List Byte, fields.length ≤ 253 → ∃ frame, wrapFields fields = some frame ∧ slice frame 1 (fields.length + 1) = fields)
  ∧ (∀ fields frame : List Byte, fields.length < 3 → wrapFields fields = some frame →
    decodeMessage frame = .error .invalidMessageLength)
  ∧ ∀ (x y z : Byte) (data frame : List Byte), y ≠ 0x00#8 → y ≠ 0x04#8 → wrapFields (x :: y :: z :: data) = some frame →
    decodeMessage frame = .error (.invalidSource y)

/-- `wrap` is injective, and re-wrapping a decoded message gives it back exactly when its length byte is right and it is no
longer than 256 bytes; the document's example comes back with length byte 5 (43_encoder R178). -/
def Obligations.RewrapOfDecodedMessage : Prop :=
  (∀ f frame : List Byte, wrapFields f = some frame → slice frame 1 (frame.length - 2) = f)
  ∧ (∀ f g frame : List Byte, wrapFields f = some frame → wrapFields g = some frame → f = g)
  ∧ (∀ (m : List Byte) (frame : Frame), decodeMessage m = .ok frame →
    (wrapFields (payloadOf m) = some m ↔ (byteAt m 0).toNat = m.length - 2 ∧ m.length ≤ 256))
  ∧ wrapFields (payloadOf [0x06#8, 0xF3#8, 0x00#8, 0x00#8, 0x41#8, 0xFE#8, 0xC6#8])
      = some [0x05#8, 0xF3#8, 0x00#8, 0x00#8, 0x41#8, 0xFE#8, 0xC7#8]

/-- WRAP (43_encoder R174): OBUF holds what `wrap` gives for the fields, and on an error no byte of OBUF is written. The
bytes stored are `OBUF[0 .. k + 2]`. That the second clause asks for no written byte is the model's reading (log entry 23). -/
def Obligations.WrapCommand : Prop :=
  decodeCommand 0x3#4 = .ok .wrap ∧
  ∀ s : State,
    (Config.maxMsg < s.ilen → ∃ t, exec .wrap s = .next t
      ∧ t.err = 7#3 ∧ t.errb = 0x00#8 ∧ t.oValid = false ∧ t.cValid = false ∧ s.KeepsAllBut [.o, .c] t
      ∧ ∀ a, t.obuf.read a = s.obuf.read a) ∧
    (253 < s.ilen → s.ilen ≤ Config.maxMsg → ∃ t, exec .wrap s = .next t
      ∧ t.err = 5#3 ∧ t.errb = 0x00#8 ∧ t.oValid = false ∧ t.cValid = false ∧ s.KeepsAllBut [.o, .c] t
      ∧ ∀ a, t.obuf.read a = s.obuf.read a) ∧
    (∀ fields, s.ilen ≤ 253 → s.operandBytes = some fields → ∃ t frame, exec .wrap s = .next t
      ∧ wrapFields fields = some frame ∧ t.olen = s.ilen + 3 ∧ t.obuf.readList 0 t.olen = some frame
      ∧ (∀ a, s.ilen + 3 ≤ a → t.obuf.read a = s.obuf.read a)
      ∧ t.oValid = true ∧ t.csum = calcChecksum (BitVec.ofNat 8 (s.ilen + 1)) fields ∧ t.cValid = true
      ∧ t.err = 0#3 ∧ t.errb = 0x00#8 ∧ s.KeepsAllBut [.o, .c] t)

/-! ## The frame rows (the model's meaning of them: log entry 11) -/

/-- ACK, NACK, DECODE_DATA and OTHER complete, and show their kind and byte (41_enum_tables R121, R122). -/
def Obligations.OpcodeRowsComplete : Prop :=
  ∀ (s : State) (length opcode source status : Byte) (rest : List Byte),
    (Decodable (length :: 0xd0#8 :: source :: status :: rest) → ∃ t, exec (.ack length source status rest) s = .next t
      ∧ t.ShowsFrame (length :: 0xd0#8 :: source :: status :: rest) ∧ t.fOpKind = 0#2 ∧ t.fOpByte = 0xd0#8) ∧
    (Decodable (length :: 0xd1#8 :: source :: status :: rest) → ∃ t, exec (.nack length source status rest) s = .next t
      ∧ t.ShowsFrame (length :: 0xd1#8 :: source :: status :: rest) ∧ t.fOpKind = 1#2 ∧ t.fOpByte = 0xd1#8) ∧
    (Decodable (length :: 0xf3#8 :: source :: status :: rest) →
      ∃ t, exec (.decodeData length source status rest) s = .next t
      ∧ t.ShowsFrame (length :: 0xf3#8 :: source :: status :: rest) ∧ t.fOpKind = 2#2 ∧ t.fOpByte = 0xf3#8) ∧
    (Decodable (length :: opcode :: source :: status :: rest) → namedOpcode opcode = false →
      ∃ t, exec (.other length opcode source status rest) s = .next t
      ∧ t.ShowsFrame (length :: opcode :: source :: status :: rest) ∧ t.fOpKind = 3#2 ∧ t.fOpByte = opcode)

/-- SRC_SCANNER and SRC_HOST complete, and show their source (41_enum_tables R124). -/
def Obligations.SourceRowsComplete : Prop :=
  ∀ (s : State) (length opcode status : Byte) (rest : List Byte),
    (Decodable (length :: opcode :: 0x00#8 :: status :: rest) →
      ∃ t, exec (.srcScanner length opcode status rest) s = .next t
      ∧ t.ShowsFrame (length :: opcode :: 0x00#8 :: status :: rest) ∧ t.fSource = 0#1) ∧
    (Decodable (length :: opcode :: 0x04#8 :: status :: rest) →
      ∃ t, exec (.srcHost length opcode status rest) s = .next t
      ∧ t.ShowsFrame (length :: opcode :: 0x04#8 :: status :: rest) ∧ t.fSource = 1#1)

/-- ST_RETRANSMIT, ST_CONTINUATION and ST_CHANGETYPE complete, and show their flag (41_enum_tables R127). -/
def Obligations.StatusRowsComplete : Prop :=
  ∀ (s : State) (length opcode source status : Byte) (rest : List Byte),
    Decodable (length :: opcode :: source :: status :: rest) →
    (status.getLsbD 0 = true → ∃ t, exec (.stRetransmit length opcode source status rest) s = .next t
      ∧ t.ShowsFrame (length :: opcode :: source :: status :: rest) ∧ t.statusFlags.retransmit = true) ∧
    (status.getLsbD 1 = true → ∃ t, exec (.stContinuation length opcode source status rest) s = .next t
      ∧ t.ShowsFrame (length :: opcode :: source :: status :: rest) ∧ t.statusFlags.continuation = true) ∧
    (status.getLsbD 3 = true → ∃ t, exec (.stChangeType length opcode source status rest) s = .next t
      ∧ t.ShowsFrame (length :: opcode :: source :: status :: rest) ∧ t.statusFlags.changeType = true)

/-! ## Frames -/

/-- The frame of every command (10_state R28; 60_exceptions R197): it leaves the groups it does not own, with their valid
bits, the operand registers and every byte of IBUF; OBUF goes with group O. -/
def Obligations.CommandFrame : Prop :=
  ∀ (i : Instr) (s t : State), formatOf i = .command → exec i s = .next t → s.KeepsAllBut (owns i) t

/-- The frame of a frame row: it stores its message at IBUF offsets 0 up and its length in `ILEN`, leaves every IBUF byte
outside the message, and otherwise leaves what DECODE leaves (log entry 11). -/
def Obligations.FrameRowFrame : Prop :=
  ∀ (i : Instr) (s t : State), formatOf i ≠ .command → exec i s = .next t →
    s.KeepsHostSide t ∧ t.ilen = (encode i).length
      ∧ (∀ a < (encode i).length, t.ibuf.read a = (encode i)[a]?)
      ∧ (∀ a, (encode i).length ≤ a → t.ibuf.read a = s.ibuf.read a)
      ∧ Group.Kept s t .o ∧ Group.Kept s t .r

/-- WRAP stores to `OBUF[0 .. k + 2]` when it succeeds and to no byte when it fails (43_encoder R174). -/
def Obligations.WrapStoreFrame : Prop :=
  ∀ s t : State, exec .wrap s = .next t →
    ∀ a, t.err ≠ 0#3 ∨ s.ilen + 3 ≤ a → t.obuf.read a = s.obuf.read a

/-! ## Errors -/

/-- Error entry (60_exceptions R197): `ERR` and `ERRB` are written and the listed groups lost, each with its valid bit; the
operand registers, both buffers and every other group keep their content. The values are those of the table of
60_exceptions R190, and `ERRB` holds a byte for two of them only. -/
def Obligations.ErrorEntry : Prop :=
  (∀ (s : State) (b : Byte) (groups : List Group),
    ((s.raise .invalidMessageLength groups).err = 1#3 ∧ (s.raise .invalidMessageLength groups).errb = 0x00#8)
      ∧ ((s.raise .invalidChecksum groups).err = 2#3 ∧ (s.raise .invalidChecksum groups).errb = 0x00#8)
      ∧ ((s.raise (.unrecognizedContentType b) groups).err = 3#3 ∧ (s.raise (.unrecognizedContentType b) groups).errb = b)
      ∧ ((s.raise (.invalidSource b) groups).err = 4#3 ∧ (s.raise (.invalidSource b) groups).errb = b)
      ∧ ((s.raise .fieldsTooLong groups).err = 5#3 ∧ (s.raise .fieldsTooLong groups).errb = 0x00#8)
      ∧ ((s.raise .badCommand groups).err = 7#3 ∧ (s.raise .badCommand groups).errb = 0x00#8)
      ∧ s.succeed.err = 0#3 ∧ s.succeed.errb = 0x00#8) ∧
  ∀ (s : State) (e : ErrKind) (groups : List Group),
    (s.raise e groups).err = e.code ∧ (s.raise e groups).errb = e.info
      ∧ (Group.c ∈ groups → (s.raise e groups).cValid = false) ∧ (Group.f ∈ groups → (s.raise e groups).fValid = false)
      ∧ (Group.o ∈ groups → (s.raise e groups).oValid = false) ∧ (Group.r ∈ groups → (s.raise e groups).rValid = false)
      ∧ (∀ a, (s.raise e groups).obuf.read a = s.obuf.read a) ∧ s.KeepsAllBut groups (s.raise e groups)

/-- After any instruction that ended in an error, every group it owns is invalid, except C where `CSUM` was already written
by it, which only DECODE does (60_exceptions R197); after one that ended well every group it owns is valid. That a frame row
owns what DECODE owns is the model's choice (log entry 11). -/
def Obligations.ErrorsClearOwnedGroups : Prop :=
  ∀ (i : Instr) (s t : State), exec i s = .next t →
    (t.err ≠ 0#3 → (Group.f ∈ owns i → t.fValid = false) ∧ (Group.o ∈ owns i → t.oValid = false)
      ∧ (Group.r ∈ owns i → t.rValid = false)
      ∧ (Group.c ∈ owns i → t.cValid = true → Group.f ∈ owns i ∧ 4 ≤ t.ilen ∧ t.ilen ≤ Config.maxMsg)) ∧
    (t.err = 0#3 → t.errb = 0x00#8 ∧ (Group.c ∈ owns i → t.cValid = true) ∧ (Group.f ∈ owns i → t.fValid = true)
      ∧ (Group.o ∈ owns i → t.oValid = true) ∧ (Group.r ∈ owns i → t.rValid = true))

/-- The model-level fault of 60_exceptions R207 (70_reset R223): CSUM, DECODE and WRAP stop exactly when they would read an
IBUF byte nothing has written, and in every other state each of them, and in every state each table command, answers a next
state. The model's choices here: an operand REGISTER nothing has written does not fault (log entry 2, against R207 and R223),
and a DECODE of fewer than 4 bytes or a WRAP of more than 253 reads no byte (log entry 23). -/
def Obligations.UnwrittenOperandFaults : Prop :=
  ∀ s : State,
    (exec .csum s = .fault .unwrittenIbuf ↔ s.ilen ≤ Config.maxMsg ∧ ¬ s.OperandsWritten) ∧
    (exec .decode s = .fault .unwrittenIbuf ↔ 4 ≤ s.ilen ∧ s.ilen ≤ Config.maxMsg ∧ ¬ s.OperandsWritten) ∧
    (exec .wrap s = .fault .unwrittenIbuf ↔ s.ilen ≤ 253 ∧ ¬ s.OperandsWritten) ∧
    (∀ i, formatOf i = .command → exec i s ≠ .fault .unwrittenIbuf → ∃ t, exec i s = .next t) ∧
    (∀ i ∈ [Instr.opdec, .openc, .srcdec, .srcenc, .stdec, .ctdec], ∃ t, exec i s = .next t) ∧
    (s.OperandsWritten → ∀ i, formatOf i = .command → ∃ t, exec i s = .next t)

/-! ## Whole-machine rules -/

/-- Purity (10_state R24; 70_reset R221): the result of an instruction depends on the operands it names alone, on no result
register, valid bit, error register or OBUF byte, and on no earlier command. A frame row brings its message with it, so its
result depends on no state at all: that is the model's meaning of it (log entry 11). -/
def Obligations.ResultsDependOnOperandsOnly : Prop :=
  ∀ (i : Instr) (s s' : State), s.SameOperands s' i → SameOutcome i (exec i s) (exec i s')

/-- Only WRAP writes OBUF, `OLEN` and `O_VALID` (10_state R31, R35); a reset event aside. -/
def Obligations.OnlyWrapWritesOutput : Prop :=
  ∀ s t : State, step s = .next t → s.cmd ≠ some 0x3#4 → (s.cmd = none → ∀ rest, s.events ≠ .reset :: rest) → Group.Kept s t .o

/-- Only DECODE writes the frame registers (10_state R30): a DECODE command or an inbound message; a reset event aside. -/
def Obligations.OnlyDecodeWritesFrame : Prop :=
  ∀ s t : State, step s = .next t → s.cmd ≠ some 0x2#4 → (s.cmd = none → ∀ rest, s.events ≠ .reset :: rest) →
    (s.cmd = none → ∀ field bytes rest, s.events ≠ .message field bytes :: rest) → Group.Kept s t .f

/-- Only the six table commands write `RES`, `RESK` and `R_VALID` (10_state R32); a reset event aside. -/
def Obligations.OnlyTableCommandsWriteResult : Prop :=
  ∀ s t : State, step s = .next t → (∀ code, s.cmd = some code → code.toNat < 4 ∨ 9 < code.toNat) →
    (s.cmd = none → ∀ rest, s.events ≠ .reset :: rest) → Group.Kept s t .r

/-- Only CSUM, DECODE (a command or an inbound message) and WRAP write `CSUM` and `C_VALID` (10_state R29), and only a command
(or an inbound message) writes `ERR` and `ERRB` (10_state R27); a reset event aside. -/
def Obligations.OnlyCommandsWriteChecksumAndErrors : Prop :=
  ∀ s t : State, step s = .next t → (s.cmd = none → ∀ rest, s.events ≠ .reset :: rest) →
    (s.cmd = none → ∀ field bytes rest, s.events ≠ .message field bytes :: rest) →
    ((∀ code, s.cmd = some code → code ≠ 0x1#4 ∧ code ≠ 0x2#4 ∧ code ≠ 0x3#4) → Group.Kept s t .c) ∧
    (s.cmd = none → t.err = s.err ∧ t.errb = s.errb)

/-- The engine never writes IBUF or an operand register (10_state R25, R34): a step that executes a command keeps them. -/
def Obligations.EngineKeepsInput : Prop :=
  ∀ s t : State, step s = .next t → s.cmd ≠ none →
    s.KeepsInput t ∧ t.size = s.size ∧ t.arg = s.arg ∧ t.argk = s.argk ∧ t.cmd = none

/-- Every step keeps the invariant. -/
def Obligations.StepKeepsInvariant : Prop :=
  ∀ s t : State, s.Inv → step s = .next t → t.Inv

/-- The invariant holds at reset. -/
def Obligations.ResetMeetsInvariant : Prop := State.reset.Inv

/-- Whenever `O_VALID` is 1, OBUF holds a frame whose checksum verifies and whose length byte is `OLEN` less 2 (43_encoder
R171, R172; 10_state R35). -/
def Obligations.ValidOutputVerifies : Prop :=
  ∀ s : State, s.Inv → s.oValid = true →
    ∃ frame, s.obuf.readList 0 s.olen = some frame ∧ checksumOk frame = true ∧ (byteAt frame 0).toNat = s.olen - 2

/-! ## Reset and the host -/

/-- The values 10_state R39 gives for reset, in `State.reset` and after the reset event of 70_reset R220; the values of the
registers it gives none for are the model's (log entry 1) and are not stated. -/
def Obligations.ResetState : Prop :=
  (State.reset.err = 0#3 ∧ State.reset.errb = 0x00#8 ∧ State.reset.cValid = false ∧ State.reset.fValid = false
    ∧ State.reset.oValid = false ∧ State.reset.rValid = false ∧ State.reset.cmd = none
    ∧ ∀ a, State.reset.ibuf.read a = none ∧ State.reset.obuf.read a = none)
  ∧ ∀ (s : State) (rest : List Event), s.cmd = none → s.events = .reset :: rest →
    ∃ t, step s = .next t ∧ t.err = 0#3 ∧ t.errb = 0x00#8 ∧ t.cValid = false ∧ t.fValid = false ∧ t.oValid = false
      ∧ t.rValid = false ∧ t.cmd = none ∧ ∀ a, t.ibuf.read a = none ∧ t.obuf.read a = none

/-- Host writes (10_state R25, R26, R38): an operand register or an IBUF byte stores the value and nothing else changes; a
code is pending; a write to OBUF or a read-only register changes nothing. `ILEN` takes every value of `LENW` bits, and
`MAXMSG + 1` is one unless it is a power of two. -/
def Obligations.HostWrites : Prop :=
  ∀ (s : State) (b : Byte) (k : BitVec 2) (code : BitVec 4),
    (∀ n, n < 2 ^ Config.lenw → s.hostWrite .ilen n = .next { s with ilen := n })
    ∧ Config.maxMsg < 2 ^ Config.lenw
    ∧ (Config.maxMsg + 1 < 2 ^ Config.lenw ∨ ∃ k, Config.maxMsg + 1 = 2 ^ k)
    ∧ s.hostWrite .size b.toNat = .next { s with size := b }
    ∧ s.hostWrite .arg b.toNat = .next { s with arg := b }
    ∧ s.hostWrite .argk k.toNat = .next { s with argk := k }
    ∧ s.hostWrite .cmd code.toNat = .next { s with cmd := some code }
    ∧ (∀ a, a < Config.maxMsg → ∃ t, s.hostWrite (.ibuf a) b.toNat = .next t ∧ t = { s with ibuf := t.ibuf }
        ∧ ∀ x, t.ibuf.read x = if x = a then some b else s.ibuf.read x)
    ∧ (∀ a v, a < Config.maxMsg → s.hostWrite (.obuf a) v = .next s)
    ∧ ∀ v, s.hostWrite .err v = .next s ∧ s.hostWrite .errb v = .next s ∧ s.hostWrite .cValid v = .next s
        ∧ s.hostWrite .fValid v = .next s ∧ s.hostWrite .oValid v = .next s ∧ s.hostWrite .rValid v = .next s
        ∧ s.hostWrite .csum v = .next s ∧ s.hostWrite .fLength v = .next s ∧ s.hostWrite .fOpKind v = .next s
        ∧ s.hostWrite .fOpByte v = .next s ∧ s.hostWrite .fSource v = .next s ∧ s.hostWrite .fStatus v = .next s
        ∧ s.hostWrite .fDoff v = .next s ∧ s.hostWrite .fDlen v = .next s ∧ s.hostWrite .olen v = .next s
        ∧ s.hostWrite .res v = .next s ∧ s.hostWrite .resk v = .next s

/-- What a host read returns (10_state R25, R27 to R32, R38): the content of an operand register, of `ERR`, `ERRB` and the
valid bits, of a register whose valid bit is 1, of a written IBUF byte, and of an OBUF byte below `OLEN` with `O_VALID` = 1. No
host read has a side effect on CORE, and reading twice gives the same value (20_memory R58; log entry 5 for a place that holds
no value). -/
def Obligations.HostReadsHaveNoSideEffect : Prop :=
  (∀ s : State,
    (s.hostRead .ilen = some s.ilen ∧ s.hostRead .size = some s.size.toNat ∧ s.hostRead .arg = some s.arg.toNat
      ∧ s.hostRead .argk = some s.argk.toNat ∧ s.hostRead .err = some s.err.toNat ∧ s.hostRead .errb = some s.errb.toNat
      ∧ s.hostRead .cValid = some s.cValid.toNat ∧ s.hostRead .fValid = some s.fValid.toNat
      ∧ s.hostRead .oValid = some s.oValid.toNat ∧ s.hostRead .rValid = some s.rValid.toNat)
    ∧ (s.cValid = true → s.hostRead .csum = some s.csum.toNat)
    ∧ (s.fValid = true → s.hostRead .fLength = some s.fLength.toNat ∧ s.hostRead .fOpKind = some s.fOpKind.toNat
        ∧ s.hostRead .fOpByte = some s.fOpByte.toNat ∧ s.hostRead .fSource = some s.fSource.toNat
        ∧ s.hostRead .fStatus = some s.fStatus.toNat ∧ s.hostRead .fDoff = some s.fDoff ∧ s.hostRead .fDlen = some s.fDlen)
    ∧ (s.oValid = true → s.hostRead .olen = some s.olen)
    ∧ (s.rValid = true → s.hostRead .res = some s.res.toNat ∧ s.hostRead .resk = some s.resk.toNat)
    ∧ (∀ a b, a < Config.maxMsg → s.ibuf.read a = some b → s.hostRead (.ibuf a) = some b.toNat)
    ∧ ∀ a b, a < Config.maxMsg → s.oValid = true → a < s.olen → s.obuf.read a = some b →
        s.hostRead (.obuf a) = some b.toNat)
  ∧ ∀ (s t : State) (port : Port) (rest : List Event), s.cmd = none → s.events = .read port :: rest → step s = .next t →
    t = { s with events := rest, rdata := t.rdata } ∧ s.hostRead port = some t.rdata ∧ t.hostRead port = some t.rdata

/-- The host's other steps (30_encoding R90, R91), as steps of this model (log entries 10 and 25). A copy writes what a read
of the source returns. With `O_VALID` = 1 the loopback loads `OBUF[0..OLEN]` into IBUF and its length into `ILEN`, and SEND
hands those bytes to the transport. The steps of FRAME, with the three commands among them, leave in OBUF the frame `wrap`
gives for the encoded opcode, the encoded source, the status byte and the data. -/
def Obligations.HostProgramSteps : Prop :=
  ∀ (s : State) (rest : List Event), s.cmd = none →
    (∀ dst src v, s.events = .copy dst src :: rest → s.hostRead src = some v →
      step s = State.hostWrite { s with events := rest } dst v) ∧
    (∀ frame, s.oValid = true → s.obuf.readList 0 s.olen = some frame → frame.length ≤ Config.maxMsg →
      (s.events = .loopback :: rest → step s = .next { s.loadMessage frame with events := rest }) ∧
      (s.events = .send :: rest → step s = .next { s with events := rest, sent := s.sent ++ [frame] })) ∧
    ∀ (kind : BitVec 2) (b : Byte) (source : Source) (status : Byte) (data : List Byte), data.length ≤ 250 →
      s.events = frameEvents kind b (kindOfSource source) status data ++ rest →
      ∃ t frame, runSteps (data.length + 15) s = .next t
        ∧ wrapFields (byteOfOpcode (opcodeOfKind kind b) :: byteOfSource source :: status :: data) = some frame
        ∧ t.obuf.readList 0 t.olen = some frame ∧ t.oValid = true ∧ t.err = 0#3 ∧ t.cmd = none ∧ t.events = rest
        ∧ t.ibuf.readList 0 3 = some [byteOfOpcode (opcodeOfKind kind b), byteOfSource source, status]

/-- The Session Loop (60_exceptions R211 to R214), as host steps (log entry 16). An inbound read leads, after the writes of
its bytes, of `ILEN` and of `CMD`, to a DECODE of them with the reaction to follow. The reaction to `ERR` = 0 puts the steps of
the Ack, the sending and the treatment of the data next, and eight steps later the transport has been handed
`04 D0 04 00 FF 28`, whatever was received; the reaction to any error issues nothing and the loop goes on. The data of a
DecodeData frame is then treated as `DD_POLICY` says, and a frame of another kind not at all. A timeout issues nothing. -/
def Obligations.SessionAcknowledges : Prop :=
  ∀ (s : State) (rest : List Event), s.cmd = none →
    (∀ m, m.length ≤ Config.maxMsg → s.events = .inbound m :: rest →
      runSteps (m.length + 3) s = .next { s.loadMessage m with cmd := some 0x2#4, events := .react :: rest }) ∧
    (s.events = .react :: rest →
      (s.err = 0#3 → step s = .next { s with events := ackEvents ++ [.send, .handleData] ++ rest }
        ∧ ∃ t, runSteps 8 s = .next t ∧ t.events = .handleData :: rest ∧ t.cmd = none
          ∧ t.sent = s.sent ++ [[0x04#8, 0xD0#8, 0x04#8, 0x00#8, 0xFF#8, 0x28#8]]
          ∧ Group.Kept s t .f ∧ Group.Kept s t .r ∧ ∀ a, 3 ≤ a → t.ibuf.read a = s.ibuf.read a) ∧
      (s.err ≠ 0#3 → step s = .next { s with events := rest })) ∧
    (s.events = .handleData :: rest →
      (s.fValid = true → s.fOpKind = 2#2 → s.fDlen ≠ 0 → step s = .next { s with events :=
        (match Config.ddPolicy with
          | .a => [.copy .arg (.ibuf s.fDoff), .write .cmd 0x9]
          | .b => []) ++ rest }) ∧
      (s.fValid = true → s.fOpKind = 2#2 → s.fDlen = 0 → step s = .refused .emptyDecodeData) ∧
      (s.fValid = false ∨ s.fOpKind ≠ 2#2 → step s = .next { s with events := rest })) ∧
    (s.events = .timeout :: rest → step s = .next { s with events := rest })
end

