-- ==== Sys2Proof/Laws/Config.lean ====
section
/-!
SUPPORT. What is known of the open parameters: `MAXMSG` is at least 256, `LENW` bits hold it, and the two functions that
decide short lengths at once say what the spec says.
-/

namespace Sys2Proof

theorem Config.maxMsg_ge : 256 ≤ Config.maxMsg := by
  unfold Config.maxMsg
  omega

theorem Config.tooLong_iff (n : Nat) : Config.tooLong n = true ↔ Config.maxMsg < n := by
  unfold Config.tooLong Config.maxMsg
  simp only [Bool.and_eq_true, decide_eq_true_eq]
  omega

theorem Config.tooLong_false_iff (n : Nat) : Config.tooLong n = false ↔ n ≤ Config.maxMsg := by
  rw [← Bool.not_eq_true, Config.tooLong_iff]
  omega

theorem Config.maxMsg_lt : Config.maxMsg < 2 ^ Config.lenw := by
  unfold Config.lenw
  exact Nat.lt_log2_self

/-- `LENW` is the least width that holds `MAXMSG` (00_scope R8). -/
theorem Config.lenw_least (w : Nat) (h : Config.maxMsg < 2 ^ w) : Config.lenw ≤ w := by
  have hne : Config.maxMsg ≠ 0 := by have := Config.maxMsg_ge; omega
  have := (Nat.log2_lt hne).2 h
  unfold Config.lenw
  omega

theorem Config.lenTrunc_eq (n : Nat) : Config.lenTrunc n = n % 2 ^ Config.lenw := by
  unfold Config.lenTrunc
  split
  · have h1 := Config.maxMsg_ge
    have h2 := Config.maxMsg_lt
    rw [Nat.mod_eq_of_lt (by omega)]
  · rfl

theorem Config.lenTrunc_lt (n : Nat) : Config.lenTrunc n < 2 ^ Config.lenw := by
  rw [Config.lenTrunc_eq]
  exact Nat.mod_lt _ (Nat.two_pow_pos _)

theorem Config.lenTrunc_of_le {n : Nat} (h : n ≤ Config.maxMsg) : Config.lenTrunc n = n := by
  rw [Config.lenTrunc_eq, Nat.mod_eq_of_lt]
  have := Config.maxMsg_lt
  omega

/-- The members of `CT_SET` that the source rules out (41_enum_tables R130). -/
theorem Config.ctSet_bounds (b : Byte) (h : Config.ctSet b = true) :
    0x01 ≤ b.toNat ∧ b.toNat ≤ 0xe1 ∧ b ≠ 0x33#8 ∧ b ≠ 0x41#8 := by
  unfold Config.ctSet at h
  simp only [Bool.and_eq_true, Bool.not_eq_true', decide_eq_true_eq, beq_eq_false_iff_ne] at h
  tauto

end Sys2Proof
end

