-- ==== Sys2Proof/Laws/Memory.lean ====
section
/-!
SUPPORT. The laws of the byte buffers: a read after a write, the canonical form, which offsets are listed, and reading a
list of bytes.
-/

namespace Sys2Proof.Machine

/-! ## Read after write -/

theorem Mem.read_write (m : Mem) (a x : Nat) (v : Byte) :
    (m.write a v).read x = if x = a then some v else m.read x := by
  induction m with
  | nil =>
    simp only [Mem.write, Mem.read, eq_comm]
  | cons cell rest ih =>
    unfold Mem.write
    by_cases h1 : a < cell.1
    · rw [if_pos h1]
      simp only [Mem.read, eq_comm (a := a)]
    · rw [if_neg h1]
      by_cases h2 : a = cell.1
      · rw [if_pos h2]
        by_cases h3 : x = a
        · simp [Mem.read, h3]
        · have h4 : cell.1 ≠ x := fun h => h3 (by rw [h2, h])
          simp [Mem.read, h3, Ne.symm h3, h4]
      · rw [if_neg h2]
        simp only [Mem.read, ih]
        by_cases h3 : cell.1 = x
        · have h4 : x ≠ a := fun h => h2 (by rw [h3, h])
          simp [h3, h4]
        · simp [h3]

@[simp] theorem Mem.read_write_same (m : Mem) (a : Nat) (v : Byte) : (m.write a v).read a = some v := by
  simp [Mem.read_write]

theorem Mem.read_write_other (m : Mem) (a x : Nat) (v : Byte) (h : x ≠ a) : (m.write a v).read x = m.read x := by
  simp [Mem.read_write, h]

/-- A list of writes puts each byte at its offset and leaves every other offset alone. -/
theorem Mem.read_writeList (bytes : List Byte) (m : Mem) (a x : Nat) :
    (m.writeList a bytes).read x = if a ≤ x ∧ x < a + bytes.length then bytes[x - a]? else m.read x := by
  induction bytes generalizing m a with
  | nil =>
    rw [Mem.writeList, if_neg]
    simp only [List.length_nil]
    omega
  | cons b rest ih =>
    simp only [Mem.writeList, ih, Mem.read_write, List.length_cons]
    by_cases hx : x = a
    · subst hx
      simp
    · by_cases hlt : a + 1 ≤ x ∧ x < a + 1 + rest.length
      · rw [if_pos hlt, if_pos (by omega)]
        obtain ⟨k, rfl⟩ : ∃ k, x = a + 1 + k := ⟨x - (a + 1), by omega⟩
        have e1 : a + 1 + k - (a + 1) = k := by omega
        have e2 : a + 1 + k - a = k + 1 := by omega
        simp [e1, e2]
      · rw [if_neg hlt, if_neg hx, if_neg (by omega)]

theorem Mem.read_writeList_outside (m : Mem) (a x : Nat) (bytes : List Byte) (h : x < a ∨ a + bytes.length ≤ x) :
    (m.writeList a bytes).read x = m.read x := by
  rw [Mem.read_writeList, if_neg (by omega)]

/-! ## The canonical form -/

theorem Mem.risingFrom_mono (m : Mem) {lo lo' : Nat} (h : lo' ≤ lo) (hm : m.risingFrom lo = true) :
    m.risingFrom lo' = true := by
  cases m with
  | nil => rfl
  | cons cell rest =>
    simp only [Mem.risingFrom, Bool.and_eq_true, decide_eq_true_eq] at hm ⊢
    exact ⟨by omega, hm.2⟩

theorem Mem.risingFrom_write (m : Mem) (lo a : Nat) (v : Byte) (ha : lo ≤ a) (hm : m.risingFrom lo = true) :
    (m.write a v).risingFrom lo = true := by
  induction m generalizing lo with
  | nil => simp [Mem.write, Mem.risingFrom, ha]
  | cons cell rest ih =>
    simp only [Mem.risingFrom, Bool.and_eq_true, decide_eq_true_eq] at hm
    unfold Mem.write
    split
    · simp only [Mem.risingFrom, Bool.and_eq_true, decide_eq_true_eq]
      exact ⟨ha, by omega, hm.2⟩
    · split
      · next h =>
        simp only [Mem.risingFrom, Bool.and_eq_true, decide_eq_true_eq]
        subst h
        exact ⟨ha, hm.2⟩
      · simp only [Mem.risingFrom, Bool.and_eq_true, decide_eq_true_eq]
        exact ⟨hm.1, ih _ (by omega) hm.2⟩

/-- A write keeps the canonical form. -/
theorem Mem.wf_write (m : Mem) (a : Nat) (v : Byte) (hm : m.wf = true) : (m.write a v).wf = true :=
  Mem.risingFrom_write m 0 a v (Nat.zero_le _) hm

/-- A list of writes keeps the canonical form. -/
theorem Mem.wf_writeList (bytes : List Byte) (m : Mem) (a : Nat) (hm : m.wf = true) : (m.writeList a bytes).wf = true := by
  induction bytes generalizing m a with
  | nil => exact hm
  | cons b rest ih => exact ih _ _ (Mem.wf_write m a b hm)

theorem State.reset_ibuf_wf : State.reset.ibuf.wf = true := rfl

theorem State.reset_obuf_wf : State.reset.obuf.wf = true := rfl

/-! ## Which offsets are listed -/

/-- A write lists its own offset and no other new one. -/
theorem Mem.mem_write (m : Mem) (a : Nat) (v : Byte) (cell : Host.Cell) (h : cell ∈ m.write a v) :
    cell = (a, v) ∨ cell ∈ m := by
  induction m with
  | nil => simpa [Mem.write] using h
  | cons first rest ih =>
    unfold Mem.write at h
    split at h
    · simpa using h
    · split at h
      · simp only [List.mem_cons] at h ⊢
        tauto
      · simp only [List.mem_cons] at h ⊢
        rcases h with h | h
        · tauto
        · rcases ih h with h | h <;> tauto

theorem Mem.write_inside (m : Mem) (a n : Nat) (v : Byte) (ha : a < n) (hm : ∀ cell ∈ m, cell.1 < n) :
    ∀ cell ∈ m.write a v, cell.1 < n := by
  intro cell h
  rcases Mem.mem_write m a v cell h with rfl | h
  · exact ha
  · exact hm cell h

theorem Mem.writeList_inside (bytes : List Byte) (m : Mem) (a n : Nat) (ha : a + bytes.length ≤ n)
    (hm : ∀ cell ∈ m, cell.1 < n) : ∀ cell ∈ m.writeList a bytes, cell.1 < n := by
  induction bytes generalizing m a with
  | nil => exact hm
  | cons b rest ih =>
    simp only [List.length_cons] at ha
    exact ih _ _ (by omega) (Mem.write_inside m a n b (by omega) hm)

/-! ## Reading a list of bytes -/

/-- Reading `n` bytes answers the list `l` exactly when `l` has `n` elements, each the byte at its offset. -/
theorem Mem.readList_eq_some (n : Nat) (m : Mem) (a : Nat) (l : List Byte) :
    m.readList a n = some l ↔ l.length = n ∧ ∀ i < n, m.read (a + i) = l[i]? := by
  induction n generalizing a l with
  | zero =>
    cases l with
    | nil => simp [Mem.readList]
    | cons b l => simp [Mem.readList]
  | succ n ih =>
    cases l with
    | nil =>
      simp only [Mem.readList, List.length_nil]
      constructor
      · intro h
        split at h <;> simp at h
      · rintro ⟨h, _⟩
        omega
    | cons b l =>
      simp only [Mem.readList]
      constructor
      · intro h
        split at h
        · next b' rest hb hrest =>
          simp only [Option.some.injEq, List.cons.injEq] at h
          obtain ⟨rfl, rfl⟩ := h
          obtain ⟨hl, hr⟩ := (ih (a + 1) rest).1 hrest
          refine ⟨by simp [hl], ?_⟩
          intro i hi
          cases i with
          | zero => simpa using hb
          | succ i =>
            have := hr i (by omega)
            rw [show a + (i + 1) = a + 1 + i by omega, this]
            simp
        · simp at h
      · rintro ⟨hl, hr⟩
        have h0 := hr 0 (by omega)
        have hrest : m.readList (a + 1) n = some l := by
          rw [ih]
          refine ⟨by simpa using hl, ?_⟩
          intro i hi
          have := hr (i + 1) (by omega)
          rw [show a + (i + 1) = a + 1 + i by omega] at this
          rw [this]
          simp
        simp only [Nat.add_zero, List.getElem?_cons_zero] at h0
        rw [h0, hrest]

theorem Mem.readList_length {m : Mem} {a n : Nat} {l : List Byte} (h : m.readList a n = some l) : l.length = n :=
  ((Mem.readList_eq_some n m a l).1 h).1

/-- Reading fails exactly when one of the bytes holds no value. -/
theorem Mem.readList_eq_none (n : Nat) (m : Mem) (a : Nat) :
    m.readList a n = none ↔ ∃ i < n, m.read (a + i) = none := by
  induction n generalizing a with
  | zero => simp [Mem.readList]
  | succ n ih =>
    simp only [Mem.readList]
    constructor
    · intro h
      split at h
      · simp at h
      · next hne =>
        by_cases hb : m.read a = none
        · exact ⟨0, by omega, by simpa using hb⟩
        · obtain ⟨b, hb⟩ := Option.ne_none_iff_exists'.1 hb
          have hr : m.readList (a + 1) n = none := by
            by_contra hr
            obtain ⟨rest, hr⟩ := Option.ne_none_iff_exists'.1 hr
            exact hne b rest hb hr
          obtain ⟨i, hi, hn⟩ := (ih (a + 1)).1 hr
          exact ⟨i + 1, by omega, by rw [show a + (i + 1) = a + 1 + i by omega]; exact hn⟩
    · rintro ⟨i, hi, hn⟩
      cases i with
      | zero =>
        simp only [Nat.add_zero] at hn
        rw [hn]
      | succ i =>
        have hr : m.readList (a + 1) n = none :=
          (ih (a + 1)).2 ⟨i, by omega, by rw [show a + 1 + i = a + (i + 1) by omega]; exact hn⟩
        rw [hr]
        cases m.read a <;> rfl

/-- Bytes just written are read back. -/
theorem Mem.readList_writeList (m : Mem) (a : Nat) (bytes : List Byte) :
    (m.writeList a bytes).readList a bytes.length = some bytes := by
  rw [Mem.readList_eq_some]
  refine ⟨rfl, ?_⟩
  intro i hi
  rw [Mem.read_writeList, if_pos (by omega)]
  congr 1
  omega

/-- Two buffers that agree on the bytes read give the same list. -/
theorem Mem.readList_congr (n : Nat) (m m' : Mem) (a : Nat) (h : ∀ i < n, m.read (a + i) = m'.read (a + i)) :
    m.readList a n = m'.readList a n := by
  induction n generalizing a with
  | zero => rfl
  | succ n ih =>
    have h0 := h 0 (by omega)
    simp only [Nat.add_zero] at h0
    have hr := ih (a + 1) (fun i hi => by
      have := h (i + 1) (by omega)
      rwa [show a + (i + 1) = a + 1 + i by omega] at this)
    simp only [Mem.readList, h0, hr]

end Sys2Proof.Machine
end

