-- ==== Sys2Proof/Laws/State.lean ====
section
/-!
SUPPORT. One lemma per field per update of State, so that no proof unfolds a record update; and what error entry
(`State.lose`, `State.raise`) leaves alone and what it writes, for every list of groups.
-/

namespace Sys2Proof.Machine

/-! ## `State.succeed` -/

@[simp] theorem State.succeed_ilen (s : State) : (s.succeed).ilen = s.ilen := rfl
@[simp] theorem State.succeed_size (s : State) : (s.succeed).size = s.size := rfl
@[simp] theorem State.succeed_arg (s : State) : (s.succeed).arg = s.arg := rfl
@[simp] theorem State.succeed_argk (s : State) : (s.succeed).argk = s.argk := rfl
@[simp] theorem State.succeed_cmd (s : State) : (s.succeed).cmd = s.cmd := rfl
@[simp] theorem State.succeed_err (s : State) : (s.succeed).err = 0#3 := rfl
@[simp] theorem State.succeed_errb (s : State) : (s.succeed).errb = 0x00#8 := rfl
@[simp] theorem State.succeed_cValid (s : State) : (s.succeed).cValid = s.cValid := rfl
@[simp] theorem State.succeed_fValid (s : State) : (s.succeed).fValid = s.fValid := rfl
@[simp] theorem State.succeed_oValid (s : State) : (s.succeed).oValid = s.oValid := rfl
@[simp] theorem State.succeed_rValid (s : State) : (s.succeed).rValid = s.rValid := rfl
@[simp] theorem State.succeed_csum (s : State) : (s.succeed).csum = s.csum := rfl
@[simp] theorem State.succeed_fLength (s : State) : (s.succeed).fLength = s.fLength := rfl
@[simp] theorem State.succeed_fOpKind (s : State) : (s.succeed).fOpKind = s.fOpKind := rfl
@[simp] theorem State.succeed_fOpByte (s : State) : (s.succeed).fOpByte = s.fOpByte := rfl
@[simp] theorem State.succeed_fSource (s : State) : (s.succeed).fSource = s.fSource := rfl
@[simp] theorem State.succeed_fStatus (s : State) : (s.succeed).fStatus = s.fStatus := rfl
@[simp] theorem State.succeed_fDoff (s : State) : (s.succeed).fDoff = s.fDoff := rfl
@[simp] theorem State.succeed_fDlen (s : State) : (s.succeed).fDlen = s.fDlen := rfl
@[simp] theorem State.succeed_olen (s : State) : (s.succeed).olen = s.olen := rfl
@[simp] theorem State.succeed_res (s : State) : (s.succeed).res = s.res := rfl
@[simp] theorem State.succeed_resk (s : State) : (s.succeed).resk = s.resk := rfl
@[simp] theorem State.succeed_ibuf (s : State) : (s.succeed).ibuf = s.ibuf := rfl
@[simp] theorem State.succeed_obuf (s : State) : (s.succeed).obuf = s.obuf := rfl
@[simp] theorem State.succeed_events (s : State) : (s.succeed).events = s.events := rfl
@[simp] theorem State.succeed_rdata (s : State) : (s.succeed).rdata = s.rdata := rfl
@[simp] theorem State.succeed_hostX (s : State) : (s.succeed).hostX = s.hostX := rfl
@[simp] theorem State.succeed_hostY (s : State) : (s.succeed).hostY = s.hostY := rfl
@[simp] theorem State.succeed_sent (s : State) : (s.succeed).sent = s.sent := rfl
@[simp] theorem State.succeed_draws (s : State) : (s.succeed).draws = s.draws := rfl

/-! ## `State.setCsum` -/

@[simp] theorem State.setCsum_ilen (s : State) (c : U16) : (s.setCsum c).ilen = s.ilen := rfl
@[simp] theorem State.setCsum_size (s : State) (c : U16) : (s.setCsum c).size = s.size := rfl
@[simp] theorem State.setCsum_arg (s : State) (c : U16) : (s.setCsum c).arg = s.arg := rfl
@[simp] theorem State.setCsum_argk (s : State) (c : U16) : (s.setCsum c).argk = s.argk := rfl
@[simp] theorem State.setCsum_cmd (s : State) (c : U16) : (s.setCsum c).cmd = s.cmd := rfl
@[simp] theorem State.setCsum_err (s : State) (c : U16) : (s.setCsum c).err = s.err := rfl
@[simp] theorem State.setCsum_errb (s : State) (c : U16) : (s.setCsum c).errb = s.errb := rfl
@[simp] theorem State.setCsum_cValid (s : State) (c : U16) : (s.setCsum c).cValid = true := rfl
@[simp] theorem State.setCsum_fValid (s : State) (c : U16) : (s.setCsum c).fValid = s.fValid := rfl
@[simp] theorem State.setCsum_oValid (s : State) (c : U16) : (s.setCsum c).oValid = s.oValid := rfl
@[simp] theorem State.setCsum_rValid (s : State) (c : U16) : (s.setCsum c).rValid = s.rValid := rfl
@[simp] theorem State.setCsum_csum (s : State) (c : U16) : (s.setCsum c).csum = c := rfl
@[simp] theorem State.setCsum_fLength (s : State) (c : U16) : (s.setCsum c).fLength = s.fLength := rfl
@[simp] theorem State.setCsum_fOpKind (s : State) (c : U16) : (s.setCsum c).fOpKind = s.fOpKind := rfl
@[simp] theorem State.setCsum_fOpByte (s : State) (c : U16) : (s.setCsum c).fOpByte = s.fOpByte := rfl
@[simp] theorem State.setCsum_fSource (s : State) (c : U16) : (s.setCsum c).fSource = s.fSource := rfl
@[simp] theorem State.setCsum_fStatus (s : State) (c : U16) : (s.setCsum c).fStatus = s.fStatus := rfl
@[simp] theorem State.setCsum_fDoff (s : State) (c : U16) : (s.setCsum c).fDoff = s.fDoff := rfl
@[simp] theorem State.setCsum_fDlen (s : State) (c : U16) : (s.setCsum c).fDlen = s.fDlen := rfl
@[simp] theorem State.setCsum_olen (s : State) (c : U16) : (s.setCsum c).olen = s.olen := rfl
@[simp] theorem State.setCsum_res (s : State) (c : U16) : (s.setCsum c).res = s.res := rfl
@[simp] theorem State.setCsum_resk (s : State) (c : U16) : (s.setCsum c).resk = s.resk := rfl
@[simp] theorem State.setCsum_ibuf (s : State) (c : U16) : (s.setCsum c).ibuf = s.ibuf := rfl
@[simp] theorem State.setCsum_obuf (s : State) (c : U16) : (s.setCsum c).obuf = s.obuf := rfl
@[simp] theorem State.setCsum_events (s : State) (c : U16) : (s.setCsum c).events = s.events := rfl
@[simp] theorem State.setCsum_rdata (s : State) (c : U16) : (s.setCsum c).rdata = s.rdata := rfl
@[simp] theorem State.setCsum_hostX (s : State) (c : U16) : (s.setCsum c).hostX = s.hostX := rfl
@[simp] theorem State.setCsum_hostY (s : State) (c : U16) : (s.setCsum c).hostY = s.hostY := rfl
@[simp] theorem State.setCsum_sent (s : State) (c : U16) : (s.setCsum c).sent = s.sent := rfl
@[simp] theorem State.setCsum_draws (s : State) (c : U16) : (s.setCsum c).draws = s.draws := rfl

/-! ## `State.setResult` -/

@[simp] theorem State.setResult_ilen (s : State) (b : Byte) (k : BitVec 2) : (s.setResult b k).ilen = s.ilen := rfl
@[simp] theorem State.setResult_size (s : State) (b : Byte) (k : BitVec 2) : (s.setResult b k).size = s.size := rfl
@[simp] theorem State.setResult_arg (s : State) (b : Byte) (k : BitVec 2) : (s.setResult b k).arg = s.arg := rfl
@[simp] theorem State.setResult_argk (s : State) (b : Byte) (k : BitVec 2) : (s.setResult b k).argk = s.argk := rfl
@[simp] theorem State.setResult_cmd (s : State) (b : Byte) (k : BitVec 2) : (s.setResult b k).cmd = s.cmd := rfl
@[simp] theorem State.setResult_err (s : State) (b : Byte) (k : BitVec 2) : (s.setResult b k).err = 0#3 := rfl
@[simp] theorem State.setResult_errb (s : State) (b : Byte) (k : BitVec 2) : (s.setResult b k).errb = 0x00#8 := rfl
@[simp] theorem State.setResult_cValid (s : State) (b : Byte) (k : BitVec 2) : (s.setResult b k).cValid = s.cValid := rfl
@[simp] theorem State.setResult_fValid (s : State) (b : Byte) (k : BitVec 2) : (s.setResult b k).fValid = s.fValid := rfl
@[simp] theorem State.setResult_oValid (s : State) (b : Byte) (k : BitVec 2) : (s.setResult b k).oValid = s.oValid := rfl
@[simp] theorem State.setResult_rValid (s : State) (b : Byte) (k : BitVec 2) : (s.setResult b k).rValid = true := rfl
@[simp] theorem State.setResult_csum (s : State) (b : Byte) (k : BitVec 2) : (s.setResult b k).csum = s.csum := rfl
@[simp] theorem State.setResult_fLength (s : State) (b : Byte) (k : BitVec 2) : (s.setResult b k).fLength = s.fLength := rfl
@[simp] theorem State.setResult_fOpKind (s : State) (b : Byte) (k : BitVec 2) : (s.setResult b k).fOpKind = s.fOpKind := rfl
@[simp] theorem State.setResult_fOpByte (s : State) (b : Byte) (k : BitVec 2) : (s.setResult b k).fOpByte = s.fOpByte := rfl
@[simp] theorem State.setResult_fSource (s : State) (b : Byte) (k : BitVec 2) : (s.setResult b k).fSource = s.fSource := rfl
@[simp] theorem State.setResult_fStatus (s : State) (b : Byte) (k : BitVec 2) : (s.setResult b k).fStatus = s.fStatus := rfl
@[simp] theorem State.setResult_fDoff (s : State) (b : Byte) (k : BitVec 2) : (s.setResult b k).fDoff = s.fDoff := rfl
@[simp] theorem State.setResult_fDlen (s : State) (b : Byte) (k : BitVec 2) : (s.setResult b k).fDlen = s.fDlen := rfl
@[simp] theorem State.setResult_olen (s : State) (b : Byte) (k : BitVec 2) : (s.setResult b k).olen = s.olen := rfl
@[simp] theorem State.setResult_res (s : State) (b : Byte) (k : BitVec 2) : (s.setResult b k).res = b := rfl
@[simp] theorem State.setResult_resk (s : State) (b : Byte) (k : BitVec 2) : (s.setResult b k).resk = k := rfl
@[simp] theorem State.setResult_ibuf (s : State) (b : Byte) (k : BitVec 2) : (s.setResult b k).ibuf = s.ibuf := rfl
@[simp] theorem State.setResult_obuf (s : State) (b : Byte) (k : BitVec 2) : (s.setResult b k).obuf = s.obuf := rfl
@[simp] theorem State.setResult_events (s : State) (b : Byte) (k : BitVec 2) : (s.setResult b k).events = s.events := rfl
@[simp] theorem State.setResult_rdata (s : State) (b : Byte) (k : BitVec 2) : (s.setResult b k).rdata = s.rdata := rfl
@[simp] theorem State.setResult_hostX (s : State) (b : Byte) (k : BitVec 2) : (s.setResult b k).hostX = s.hostX := rfl
@[simp] theorem State.setResult_hostY (s : State) (b : Byte) (k : BitVec 2) : (s.setResult b k).hostY = s.hostY := rfl
@[simp] theorem State.setResult_sent (s : State) (b : Byte) (k : BitVec 2) : (s.setResult b k).sent = s.sent := rfl
@[simp] theorem State.setResult_draws (s : State) (b : Byte) (k : BitVec 2) : (s.setResult b k).draws = s.draws := rfl

/-! ## `State.setFrame` -/

@[simp] theorem State.setFrame_ilen (s : State) (l o : Byte) (src : BitVec 1) (st : Byte) (n : Nat) : (s.setFrame l o src st n).ilen = s.ilen := rfl
@[simp] theorem State.setFrame_size (s : State) (l o : Byte) (src : BitVec 1) (st : Byte) (n : Nat) : (s.setFrame l o src st n).size = s.size := rfl
@[simp] theorem State.setFrame_arg (s : State) (l o : Byte) (src : BitVec 1) (st : Byte) (n : Nat) : (s.setFrame l o src st n).arg = s.arg := rfl
@[simp] theorem State.setFrame_argk (s : State) (l o : Byte) (src : BitVec 1) (st : Byte) (n : Nat) : (s.setFrame l o src st n).argk = s.argk := rfl
@[simp] theorem State.setFrame_cmd (s : State) (l o : Byte) (src : BitVec 1) (st : Byte) (n : Nat) : (s.setFrame l o src st n).cmd = s.cmd := rfl
@[simp] theorem State.setFrame_err (s : State) (l o : Byte) (src : BitVec 1) (st : Byte) (n : Nat) : (s.setFrame l o src st n).err = 0#3 := rfl
@[simp] theorem State.setFrame_errb (s : State) (l o : Byte) (src : BitVec 1) (st : Byte) (n : Nat) : (s.setFrame l o src st n).errb = 0x00#8 := rfl
@[simp] theorem State.setFrame_cValid (s : State) (l o : Byte) (src : BitVec 1) (st : Byte) (n : Nat) : (s.setFrame l o src st n).cValid = s.cValid := rfl
@[simp] theorem State.setFrame_fValid (s : State) (l o : Byte) (src : BitVec 1) (st : Byte) (n : Nat) : (s.setFrame l o src st n).fValid = true := rfl
@[simp] theorem State.setFrame_oValid (s : State) (l o : Byte) (src : BitVec 1) (st : Byte) (n : Nat) : (s.setFrame l o src st n).oValid = s.oValid := rfl
@[simp] theorem State.setFrame_rValid (s : State) (l o : Byte) (src : BitVec 1) (st : Byte) (n : Nat) : (s.setFrame l o src st n).rValid = s.rValid := rfl
@[simp] theorem State.setFrame_csum (s : State) (l o : Byte) (src : BitVec 1) (st : Byte) (n : Nat) : (s.setFrame l o src st n).csum = s.csum := rfl
@[simp] theorem State.setFrame_fLength (s : State) (l o : Byte) (src : BitVec 1) (st : Byte) (n : Nat) : (s.setFrame l o src st n).fLength = l := rfl
@[simp] theorem State.setFrame_fOpKind (s : State) (l o : Byte) (src : BitVec 1) (st : Byte) (n : Nat) : (s.setFrame l o src st n).fOpKind = kindOfOpcode (opcodeOfByte o) := rfl
@[simp] theorem State.setFrame_fOpByte (s : State) (l o : Byte) (src : BitVec 1) (st : Byte) (n : Nat) : (s.setFrame l o src st n).fOpByte = o := rfl
@[simp] theorem State.setFrame_fSource (s : State) (l o : Byte) (src : BitVec 1) (st : Byte) (n : Nat) : (s.setFrame l o src st n).fSource = src := rfl
@[simp] theorem State.setFrame_fStatus (s : State) (l o : Byte) (src : BitVec 1) (st : Byte) (n : Nat) : (s.setFrame l o src st n).fStatus = maskStatus st := rfl
@[simp] theorem State.setFrame_fDoff (s : State) (l o : Byte) (src : BitVec 1) (st : Byte) (n : Nat) : (s.setFrame l o src st n).fDoff = 4 := rfl
@[simp] theorem State.setFrame_fDlen (s : State) (l o : Byte) (src : BitVec 1) (st : Byte) (n : Nat) : (s.setFrame l o src st n).fDlen = n := rfl
@[simp] theorem State.setFrame_olen (s : State) (l o : Byte) (src : BitVec 1) (st : Byte) (n : Nat) : (s.setFrame l o src st n).olen = s.olen := rfl
@[simp] theorem State.setFrame_res (s : State) (l o : Byte) (src : BitVec 1) (st : Byte) (n : Nat) : (s.setFrame l o src st n).res = s.res := rfl
@[simp] theorem State.setFrame_resk (s : State) (l o : Byte) (src : BitVec 1) (st : Byte) (n : Nat) : (s.setFrame l o src st n).resk = s.resk := rfl
@[simp] theorem State.setFrame_ibuf (s : State) (l o : Byte) (src : BitVec 1) (st : Byte) (n : Nat) : (s.setFrame l o src st n).ibuf = s.ibuf := rfl
@[simp] theorem State.setFrame_obuf (s : State) (l o : Byte) (src : BitVec 1) (st : Byte) (n : Nat) : (s.setFrame l o src st n).obuf = s.obuf := rfl
@[simp] theorem State.setFrame_events (s : State) (l o : Byte) (src : BitVec 1) (st : Byte) (n : Nat) : (s.setFrame l o src st n).events = s.events := rfl
@[simp] theorem State.setFrame_rdata (s : State) (l o : Byte) (src : BitVec 1) (st : Byte) (n : Nat) : (s.setFrame l o src st n).rdata = s.rdata := rfl
@[simp] theorem State.setFrame_hostX (s : State) (l o : Byte) (src : BitVec 1) (st : Byte) (n : Nat) : (s.setFrame l o src st n).hostX = s.hostX := rfl
@[simp] theorem State.setFrame_hostY (s : State) (l o : Byte) (src : BitVec 1) (st : Byte) (n : Nat) : (s.setFrame l o src st n).hostY = s.hostY := rfl
@[simp] theorem State.setFrame_sent (s : State) (l o : Byte) (src : BitVec 1) (st : Byte) (n : Nat) : (s.setFrame l o src st n).sent = s.sent := rfl
@[simp] theorem State.setFrame_draws (s : State) (l o : Byte) (src : BitVec 1) (st : Byte) (n : Nat) : (s.setFrame l o src st n).draws = s.draws := rfl

/-! ## `State.setOutput` -/

@[simp] theorem State.setOutput_ilen (s : State) (fields : List Byte) (check : U16) : (s.setOutput fields check).ilen = s.ilen := rfl
@[simp] theorem State.setOutput_size (s : State) (fields : List Byte) (check : U16) : (s.setOutput fields check).size = s.size := rfl
@[simp] theorem State.setOutput_arg (s : State) (fields : List Byte) (check : U16) : (s.setOutput fields check).arg = s.arg := rfl
@[simp] theorem State.setOutput_argk (s : State) (fields : List Byte) (check : U16) : (s.setOutput fields check).argk = s.argk := rfl
@[simp] theorem State.setOutput_cmd (s : State) (fields : List Byte) (check : U16) : (s.setOutput fields check).cmd = s.cmd := rfl
@[simp] theorem State.setOutput_err (s : State) (fields : List Byte) (check : U16) : (s.setOutput fields check).err = 0#3 := rfl
@[simp] theorem State.setOutput_errb (s : State) (fields : List Byte) (check : U16) : (s.setOutput fields check).errb = 0x00#8 := rfl
@[simp] theorem State.setOutput_cValid (s : State) (fields : List Byte) (check : U16) : (s.setOutput fields check).cValid = s.cValid := rfl
@[simp] theorem State.setOutput_fValid (s : State) (fields : List Byte) (check : U16) : (s.setOutput fields check).fValid = s.fValid := rfl
@[simp] theorem State.setOutput_oValid (s : State) (fields : List Byte) (check : U16) : (s.setOutput fields check).oValid = true := rfl
@[simp] theorem State.setOutput_rValid (s : State) (fields : List Byte) (check : U16) : (s.setOutput fields check).rValid = s.rValid := rfl
@[simp] theorem State.setOutput_csum (s : State) (fields : List Byte) (check : U16) : (s.setOutput fields check).csum = s.csum := rfl
@[simp] theorem State.setOutput_fLength (s : State) (fields : List Byte) (check : U16) : (s.setOutput fields check).fLength = s.fLength := rfl
@[simp] theorem State.setOutput_fOpKind (s : State) (fields : List Byte) (check : U16) : (s.setOutput fields check).fOpKind = s.fOpKind := rfl
@[simp] theorem State.setOutput_fOpByte (s : State) (fields : List Byte) (check : U16) : (s.setOutput fields check).fOpByte = s.fOpByte := rfl
@[simp] theorem State.setOutput_fSource (s : State) (fields : List Byte) (check : U16) : (s.setOutput fields check).fSource = s.fSource := rfl
@[simp] theorem State.setOutput_fStatus (s : State) (fields : List Byte) (check : U16) : (s.setOutput fields check).fStatus = s.fStatus := rfl
@[simp] theorem State.setOutput_fDoff (s : State) (fields : List Byte) (check : U16) : (s.setOutput fields check).fDoff = s.fDoff := rfl
@[simp] theorem State.setOutput_fDlen (s : State) (fields : List Byte) (check : U16) : (s.setOutput fields check).fDlen = s.fDlen := rfl
@[simp] theorem State.setOutput_olen (s : State) (fields : List Byte) (check : U16) : (s.setOutput fields check).olen = fields.length + 3 := rfl
@[simp] theorem State.setOutput_res (s : State) (fields : List Byte) (check : U16) : (s.setOutput fields check).res = s.res := rfl
@[simp] theorem State.setOutput_resk (s : State) (fields : List Byte) (check : U16) : (s.setOutput fields check).resk = s.resk := rfl
@[simp] theorem State.setOutput_ibuf (s : State) (fields : List Byte) (check : U16) : (s.setOutput fields check).ibuf = s.ibuf := rfl
@[simp] theorem State.setOutput_obuf (s : State) (fields : List Byte) (check : U16) : (s.setOutput fields check).obuf =
    (((s.obuf.write 0 (BitVec.ofNat 8 (fields.length + 1))).writeList 1 fields).write (fields.length + 1) (hi8 check)).write
      (fields.length + 2) (lo8 check) := rfl
@[simp] theorem State.setOutput_events (s : State) (fields : List Byte) (check : U16) : (s.setOutput fields check).events = s.events := rfl
@[simp] theorem State.setOutput_rdata (s : State) (fields : List Byte) (check : U16) : (s.setOutput fields check).rdata = s.rdata := rfl
@[simp] theorem State.setOutput_hostX (s : State) (fields : List Byte) (check : U16) : (s.setOutput fields check).hostX = s.hostX := rfl
@[simp] theorem State.setOutput_hostY (s : State) (fields : List Byte) (check : U16) : (s.setOutput fields check).hostY = s.hostY := rfl
@[simp] theorem State.setOutput_sent (s : State) (fields : List Byte) (check : U16) : (s.setOutput fields check).sent = s.sent := rfl
@[simp] theorem State.setOutput_draws (s : State) (fields : List Byte) (check : U16) : (s.setOutput fields check).draws = s.draws := rfl

/-! ## `State.loadMessage` -/

@[simp] theorem State.loadMessage_ilen (s : State) (bytes : List Byte) : (s.loadMessage bytes).ilen = Config.lenTrunc bytes.length := rfl
@[simp] theorem State.loadMessage_size (s : State) (bytes : List Byte) : (s.loadMessage bytes).size = s.size := rfl
@[simp] theorem State.loadMessage_arg (s : State) (bytes : List Byte) : (s.loadMessage bytes).arg = s.arg := rfl
@[simp] theorem State.loadMessage_argk (s : State) (bytes : List Byte) : (s.loadMessage bytes).argk = s.argk := rfl
@[simp] theorem State.loadMessage_cmd (s : State) (bytes : List Byte) : (s.loadMessage bytes).cmd = s.cmd := rfl
@[simp] theorem State.loadMessage_err (s : State) (bytes : List Byte) : (s.loadMessage bytes).err = s.err := rfl
@[simp] theorem State.loadMessage_errb (s : State) (bytes : List Byte) : (s.loadMessage bytes).errb = s.errb := rfl
@[simp] theorem State.loadMessage_cValid (s : State) (bytes : List Byte) : (s.loadMessage bytes).cValid = s.cValid := rfl
@[simp] theorem State.loadMessage_fValid (s : State) (bytes : List Byte) : (s.loadMessage bytes).fValid = s.fValid := rfl
@[simp] theorem State.loadMessage_oValid (s : State) (bytes : List Byte) : (s.loadMessage bytes).oValid = s.oValid := rfl
@[simp] theorem State.loadMessage_rValid (s : State) (bytes : List Byte) : (s.loadMessage bytes).rValid = s.rValid := rfl
@[simp] theorem State.loadMessage_csum (s : State) (bytes : List Byte) : (s.loadMessage bytes).csum = s.csum := rfl
@[simp] theorem State.loadMessage_fLength (s : State) (bytes : List Byte) : (s.loadMessage bytes).fLength = s.fLength := rfl
@[simp] theorem State.loadMessage_fOpKind (s : State) (bytes : List Byte) : (s.loadMessage bytes).fOpKind = s.fOpKind := rfl
@[simp] theorem State.loadMessage_fOpByte (s : State) (bytes : List Byte) : (s.loadMessage bytes).fOpByte = s.fOpByte := rfl
@[simp] theorem State.loadMessage_fSource (s : State) (bytes : List Byte) : (s.loadMessage bytes).fSource = s.fSource := rfl
@[simp] theorem State.loadMessage_fStatus (s : State) (bytes : List Byte) : (s.loadMessage bytes).fStatus = s.fStatus := rfl
@[simp] theorem State.loadMessage_fDoff (s : State) (bytes : List Byte) : (s.loadMessage bytes).fDoff = s.fDoff := rfl
@[simp] theorem State.loadMessage_fDlen (s : State) (bytes : List Byte) : (s.loadMessage bytes).fDlen = s.fDlen := rfl
@[simp] theorem State.loadMessage_olen (s : State) (bytes : List Byte) : (s.loadMessage bytes).olen = s.olen := rfl
@[simp] theorem State.loadMessage_res (s : State) (bytes : List Byte) : (s.loadMessage bytes).res = s.res := rfl
@[simp] theorem State.loadMessage_resk (s : State) (bytes : List Byte) : (s.loadMessage bytes).resk = s.resk := rfl
@[simp] theorem State.loadMessage_ibuf (s : State) (bytes : List Byte) : (s.loadMessage bytes).ibuf = s.ibuf.writeList 0 bytes := rfl
@[simp] theorem State.loadMessage_obuf (s : State) (bytes : List Byte) : (s.loadMessage bytes).obuf = s.obuf := rfl
@[simp] theorem State.loadMessage_events (s : State) (bytes : List Byte) : (s.loadMessage bytes).events = s.events := rfl
@[simp] theorem State.loadMessage_rdata (s : State) (bytes : List Byte) : (s.loadMessage bytes).rdata = s.rdata := rfl
@[simp] theorem State.loadMessage_hostX (s : State) (bytes : List Byte) : (s.loadMessage bytes).hostX = s.hostX := rfl
@[simp] theorem State.loadMessage_hostY (s : State) (bytes : List Byte) : (s.loadMessage bytes).hostY = s.hostY := rfl
@[simp] theorem State.loadMessage_sent (s : State) (bytes : List Byte) : (s.loadMessage bytes).sent = s.sent := rfl
@[simp] theorem State.loadMessage_draws (s : State) (bytes : List Byte) : (s.loadMessage bytes).draws = s.draws := rfl

/-! ## `State.resetEvent` -/

@[simp] theorem State.resetEvent_ilen (s : State) : (s.resetEvent).ilen = State.reset.ilen := rfl
@[simp] theorem State.resetEvent_size (s : State) : (s.resetEvent).size = State.reset.size := rfl
@[simp] theorem State.resetEvent_arg (s : State) : (s.resetEvent).arg = State.reset.arg := rfl
@[simp] theorem State.resetEvent_argk (s : State) : (s.resetEvent).argk = State.reset.argk := rfl
@[simp] theorem State.resetEvent_cmd (s : State) : (s.resetEvent).cmd = State.reset.cmd := rfl
@[simp] theorem State.resetEvent_err (s : State) : (s.resetEvent).err = State.reset.err := rfl
@[simp] theorem State.resetEvent_errb (s : State) : (s.resetEvent).errb = State.reset.errb := rfl
@[simp] theorem State.resetEvent_cValid (s : State) : (s.resetEvent).cValid = State.reset.cValid := rfl
@[simp] theorem State.resetEvent_fValid (s : State) : (s.resetEvent).fValid = State.reset.fValid := rfl
@[simp] theorem State.resetEvent_oValid (s : State) : (s.resetEvent).oValid = State.reset.oValid := rfl
@[simp] theorem State.resetEvent_rValid (s : State) : (s.resetEvent).rValid = State.reset.rValid := rfl
@[simp] theorem State.resetEvent_csum (s : State) : (s.resetEvent).csum = State.reset.csum := rfl
@[simp] theorem State.resetEvent_fLength (s : State) : (s.resetEvent).fLength = State.reset.fLength := rfl
@[simp] theorem State.resetEvent_fOpKind (s : State) : (s.resetEvent).fOpKind = State.reset.fOpKind := rfl
@[simp] theorem State.resetEvent_fOpByte (s : State) : (s.resetEvent).fOpByte = State.reset.fOpByte := rfl
@[simp] theorem State.resetEvent_fSource (s : State) : (s.resetEvent).fSource = State.reset.fSource := rfl
@[simp] theorem State.resetEvent_fStatus (s : State) : (s.resetEvent).fStatus = State.reset.fStatus := rfl
@[simp] theorem State.resetEvent_fDoff (s : State) : (s.resetEvent).fDoff = State.reset.fDoff := rfl
@[simp] theorem State.resetEvent_fDlen (s : State) : (s.resetEvent).fDlen = State.reset.fDlen := rfl
@[simp] theorem State.resetEvent_olen (s : State) : (s.resetEvent).olen = State.reset.olen := rfl
@[simp] theorem State.resetEvent_res (s : State) : (s.resetEvent).res = State.reset.res := rfl
@[simp] theorem State.resetEvent_resk (s : State) : (s.resetEvent).resk = State.reset.resk := rfl
@[simp] theorem State.resetEvent_ibuf (s : State) : (s.resetEvent).ibuf = State.reset.ibuf := rfl
@[simp] theorem State.resetEvent_obuf (s : State) : (s.resetEvent).obuf = State.reset.obuf := rfl
@[simp] theorem State.resetEvent_events (s : State) : (s.resetEvent).events = s.events := rfl
@[simp] theorem State.resetEvent_rdata (s : State) : (s.resetEvent).rdata = s.rdata := rfl
@[simp] theorem State.resetEvent_hostX (s : State) : (s.resetEvent).hostX = s.hostX := rfl
@[simp] theorem State.resetEvent_hostY (s : State) : (s.resetEvent).hostY = s.hostY := rfl
@[simp] theorem State.resetEvent_sent (s : State) : (s.resetEvent).sent = s.sent := rfl
@[simp] theorem State.resetEvent_draws (s : State) : (s.resetEvent).draws = s.draws := rfl

/-! ## `State.lose` and `State.raise`: what an error leaves alone, whichever groups it takes -/

@[simp] theorem State.lose_ilen (s : State) (g : Group) : (s.lose g).ilen = s.ilen := by cases g <;> rfl
@[simp] theorem State.lose_size (s : State) (g : Group) : (s.lose g).size = s.size := by cases g <;> rfl
@[simp] theorem State.lose_arg (s : State) (g : Group) : (s.lose g).arg = s.arg := by cases g <;> rfl
@[simp] theorem State.lose_argk (s : State) (g : Group) : (s.lose g).argk = s.argk := by cases g <;> rfl
@[simp] theorem State.lose_cmd (s : State) (g : Group) : (s.lose g).cmd = s.cmd := by cases g <;> rfl
@[simp] theorem State.lose_ibuf (s : State) (g : Group) : (s.lose g).ibuf = s.ibuf := by cases g <;> rfl
@[simp] theorem State.lose_obuf (s : State) (g : Group) : (s.lose g).obuf = s.obuf := by cases g <;> rfl
@[simp] theorem State.lose_events (s : State) (g : Group) : (s.lose g).events = s.events := by cases g <;> rfl
@[simp] theorem State.lose_rdata (s : State) (g : Group) : (s.lose g).rdata = s.rdata := by cases g <;> rfl
@[simp] theorem State.lose_hostX (s : State) (g : Group) : (s.lose g).hostX = s.hostX := by cases g <;> rfl
@[simp] theorem State.lose_hostY (s : State) (g : Group) : (s.lose g).hostY = s.hostY := by cases g <;> rfl
@[simp] theorem State.lose_sent (s : State) (g : Group) : (s.lose g).sent = s.sent := by cases g <;> rfl
@[simp] theorem State.lose_err (s : State) (g : Group) : (s.lose g).err = s.err := by cases g <;> rfl
@[simp] theorem State.lose_errb (s : State) (g : Group) : (s.lose g).errb = s.errb := by cases g <;> rfl
@[simp] theorem State.lose_cValid (s : State) (g : Group) : (s.lose g).cValid = (s.cValid && decide (g ≠ .c)) := by cases g <;> simp [State.lose]
@[simp] theorem State.lose_fValid (s : State) (g : Group) : (s.lose g).fValid = (s.fValid && decide (g ≠ .f)) := by cases g <;> simp [State.lose]
@[simp] theorem State.lose_oValid (s : State) (g : Group) : (s.lose g).oValid = (s.oValid && decide (g ≠ .o)) := by cases g <;> simp [State.lose]
@[simp] theorem State.lose_rValid (s : State) (g : Group) : (s.lose g).rValid = (s.rValid && decide (g ≠ .r)) := by cases g <;> simp [State.lose]
theorem State.lose_csum (s : State) (g : Group) (h : g ≠ .c) : (s.lose g).csum = s.csum := by cases g <;> first | rfl | exact absurd rfl h
theorem State.lose_fLength (s : State) (g : Group) (h : g ≠ .f) : (s.lose g).fLength = s.fLength := by cases g <;> first | rfl | exact absurd rfl h
theorem State.lose_fOpKind (s : State) (g : Group) (h : g ≠ .f) : (s.lose g).fOpKind = s.fOpKind := by cases g <;> first | rfl | exact absurd rfl h
theorem State.lose_fOpByte (s : State) (g : Group) (h : g ≠ .f) : (s.lose g).fOpByte = s.fOpByte := by cases g <;> first | rfl | exact absurd rfl h
theorem State.lose_fSource (s : State) (g : Group) (h : g ≠ .f) : (s.lose g).fSource = s.fSource := by cases g <;> first | rfl | exact absurd rfl h
theorem State.lose_fStatus (s : State) (g : Group) (h : g ≠ .f) : (s.lose g).fStatus = s.fStatus := by cases g <;> first | rfl | exact absurd rfl h
theorem State.lose_fDoff (s : State) (g : Group) (h : g ≠ .f) : (s.lose g).fDoff = s.fDoff := by cases g <;> first | rfl | exact absurd rfl h
theorem State.lose_fDlen (s : State) (g : Group) (h : g ≠ .f) : (s.lose g).fDlen = s.fDlen := by cases g <;> first | rfl | exact absurd rfl h
theorem State.lose_olen (s : State) (g : Group) (h : g ≠ .o) : (s.lose g).olen = s.olen := by cases g <;> first | rfl | exact absurd rfl h
theorem State.lose_res (s : State) (g : Group) (h : g ≠ .r) : (s.lose g).res = s.res := by cases g <;> first | rfl | exact absurd rfl h
theorem State.lose_resk (s : State) (g : Group) (h : g ≠ .r) : (s.lose g).resk = s.resk := by cases g <;> first | rfl | exact absurd rfl h

theorem State.foldl_lose_ilen (gs : List Group) (s : State) : (gs.foldl State.lose s).ilen = s.ilen := by
  induction gs generalizing s with
  | nil => rfl
  | cons g gs ih => rw [List.foldl_cons, ih, State.lose_ilen]
theorem State.foldl_lose_size (gs : List Group) (s : State) : (gs.foldl State.lose s).size = s.size := by
  induction gs generalizing s with
  | nil => rfl
  | cons g gs ih => rw [List.foldl_cons, ih, State.lose_size]
theorem State.foldl_lose_arg (gs : List Group) (s : State) : (gs.foldl State.lose s).arg = s.arg := by
  induction gs generalizing s with
  | nil => rfl
  | cons g gs ih => rw [List.foldl_cons, ih, State.lose_arg]
theorem State.foldl_lose_argk (gs : List Group) (s : State) : (gs.foldl State.lose s).argk = s.argk := by
  induction gs generalizing s with
  | nil => rfl
  | cons g gs ih => rw [List.foldl_cons, ih, State.lose_argk]
theorem State.foldl_lose_cmd (gs : List Group) (s : State) : (gs.foldl State.lose s).cmd = s.cmd := by
  induction gs generalizing s with
  | nil => rfl
  | cons g gs ih => rw [List.foldl_cons, ih, State.lose_cmd]
theorem State.foldl_lose_ibuf (gs : List Group) (s : State) : (gs.foldl State.lose s).ibuf = s.ibuf := by
  induction gs generalizing s with
  | nil => rfl
  | cons g gs ih => rw [List.foldl_cons, ih, State.lose_ibuf]
theorem State.foldl_lose_obuf (gs : List Group) (s : State) : (gs.foldl State.lose s).obuf = s.obuf := by
  induction gs generalizing s with
  | nil => rfl
  | cons g gs ih => rw [List.foldl_cons, ih, State.lose_obuf]
theorem State.foldl_lose_events (gs : List Group) (s : State) : (gs.foldl State.lose s).events = s.events := by
  induction gs generalizing s with
  | nil => rfl
  | cons g gs ih => rw [List.foldl_cons, ih, State.lose_events]
theorem State.foldl_lose_rdata (gs : List Group) (s : State) : (gs.foldl State.lose s).rdata = s.rdata := by
  induction gs generalizing s with
  | nil => rfl
  | cons g gs ih => rw [List.foldl_cons, ih, State.lose_rdata]
theorem State.foldl_lose_hostX (gs : List Group) (s : State) : (gs.foldl State.lose s).hostX = s.hostX := by
  induction gs generalizing s with
  | nil => rfl
  | cons g gs ih => rw [List.foldl_cons, ih, State.lose_hostX]
theorem State.foldl_lose_hostY (gs : List Group) (s : State) : (gs.foldl State.lose s).hostY = s.hostY := by
  induction gs generalizing s with
  | nil => rfl
  | cons g gs ih => rw [List.foldl_cons, ih, State.lose_hostY]
theorem State.foldl_lose_sent (gs : List Group) (s : State) : (gs.foldl State.lose s).sent = s.sent := by
  induction gs generalizing s with
  | nil => rfl
  | cons g gs ih => rw [List.foldl_cons, ih, State.lose_sent]
theorem State.foldl_lose_err (gs : List Group) (s : State) : (gs.foldl State.lose s).err = s.err := by
  induction gs generalizing s with
  | nil => rfl
  | cons g gs ih => rw [List.foldl_cons, ih, State.lose_err]
theorem State.foldl_lose_errb (gs : List Group) (s : State) : (gs.foldl State.lose s).errb = s.errb := by
  induction gs generalizing s with
  | nil => rfl
  | cons g gs ih => rw [List.foldl_cons, ih, State.lose_errb]
theorem State.foldl_lose_cValid (gs : List Group) (s : State) :
    (gs.foldl State.lose s).cValid = (s.cValid && decide (Group.c ∉ gs)) := by
  induction gs generalizing s with
  | nil => simp
  | cons g gs ih =>
    rw [List.foldl_cons, ih, State.lose_cValid]
    cases g <;> simp
theorem State.foldl_lose_fValid (gs : List Group) (s : State) :
    (gs.foldl State.lose s).fValid = (s.fValid && decide (Group.f ∉ gs)) := by
  induction gs generalizing s with
  | nil => simp
  | cons g gs ih =>
    rw [List.foldl_cons, ih, State.lose_fValid]
    cases g <;> simp
theorem State.foldl_lose_oValid (gs : List Group) (s : State) :
    (gs.foldl State.lose s).oValid = (s.oValid && decide (Group.o ∉ gs)) := by
  induction gs generalizing s with
  | nil => simp
  | cons g gs ih =>
    rw [List.foldl_cons, ih, State.lose_oValid]
    cases g <;> simp
theorem State.foldl_lose_rValid (gs : List Group) (s : State) :
    (gs.foldl State.lose s).rValid = (s.rValid && decide (Group.r ∉ gs)) := by
  induction gs generalizing s with
  | nil => simp
  | cons g gs ih =>
    rw [List.foldl_cons, ih, State.lose_rValid]
    cases g <;> simp
theorem State.foldl_lose_csum (gs : List Group) (s : State) (h : Group.c ∉ gs) : (gs.foldl State.lose s).csum = s.csum := by
  induction gs generalizing s with
  | nil => rfl
  | cons g gs ih =>
    simp only [List.mem_cons, not_or] at h
    rw [List.foldl_cons, ih _ h.2, State.lose_csum _ _ (Ne.symm h.1)]
theorem State.foldl_lose_fLength (gs : List Group) (s : State) (h : Group.f ∉ gs) : (gs.foldl State.lose s).fLength = s.fLength := by
  induction gs generalizing s with
  | nil => rfl
  | cons g gs ih =>
    simp only [List.mem_cons, not_or] at h
    rw [List.foldl_cons, ih _ h.2, State.lose_fLength _ _ (Ne.symm h.1)]
theorem State.foldl_lose_fOpKind (gs : List Group) (s : State) (h : Group.f ∉ gs) : (gs.foldl State.lose s).fOpKind = s.fOpKind := by
  induction gs generalizing s with
  | nil => rfl
  | cons g gs ih =>
    simp only [List.mem_cons, not_or] at h
    rw [List.foldl_cons, ih _ h.2, State.lose_fOpKind _ _ (Ne.symm h.1)]
theorem State.foldl_lose_fOpByte (gs : List Group) (s : State) (h : Group.f ∉ gs) : (gs.foldl State.lose s).fOpByte = s.fOpByte := by
  induction gs generalizing s with
  | nil => rfl
  | cons g gs ih =>
    simp only [List.mem_cons, not_or] at h
    rw [List.foldl_cons, ih _ h.2, State.lose_fOpByte _ _ (Ne.symm h.1)]
theorem State.foldl_lose_fSource (gs : List Group) (s : State) (h : Group.f ∉ gs) : (gs.foldl State.lose s).fSource = s.fSource := by
  induction gs generalizing s with
  | nil => rfl
  | cons g gs ih =>
    simp only [List.mem_cons, not_or] at h
    rw [List.foldl_cons, ih _ h.2, State.lose_fSource _ _ (Ne.symm h.1)]
theorem State.foldl_lose_fStatus (gs : List Group) (s : State) (h : Group.f ∉ gs) : (gs.foldl State.lose s).fStatus = s.fStatus := by
  induction gs generalizing s with
  | nil => rfl
  | cons g gs ih =>
    simp only [List.mem_cons, not_or] at h
    rw [List.foldl_cons, ih _ h.2, State.lose_fStatus _ _ (Ne.symm h.1)]
theorem State.foldl_lose_fDoff (gs : List Group) (s : State) (h : Group.f ∉ gs) : (gs.foldl State.lose s).fDoff = s.fDoff := by
  induction gs generalizing s with
  | nil => rfl
  | cons g gs ih =>
    simp only [List.mem_cons, not_or] at h
    rw [List.foldl_cons, ih _ h.2, State.lose_fDoff _ _ (Ne.symm h.1)]
theorem State.foldl_lose_fDlen (gs : List Group) (s : State) (h : Group.f ∉ gs) : (gs.foldl State.lose s).fDlen = s.fDlen := by
  induction gs generalizing s with
  | nil => rfl
  | cons g gs ih =>
    simp only [List.mem_cons, not_or] at h
    rw [List.foldl_cons, ih _ h.2, State.lose_fDlen _ _ (Ne.symm h.1)]
theorem State.foldl_lose_olen (gs : List Group) (s : State) (h : Group.o ∉ gs) : (gs.foldl State.lose s).olen = s.olen := by
  induction gs generalizing s with
  | nil => rfl
  | cons g gs ih =>
    simp only [List.mem_cons, not_or] at h
    rw [List.foldl_cons, ih _ h.2, State.lose_olen _ _ (Ne.symm h.1)]
theorem State.foldl_lose_res (gs : List Group) (s : State) (h : Group.r ∉ gs) : (gs.foldl State.lose s).res = s.res := by
  induction gs generalizing s with
  | nil => rfl
  | cons g gs ih =>
    simp only [List.mem_cons, not_or] at h
    rw [List.foldl_cons, ih _ h.2, State.lose_res _ _ (Ne.symm h.1)]
theorem State.foldl_lose_resk (gs : List Group) (s : State) (h : Group.r ∉ gs) : (gs.foldl State.lose s).resk = s.resk := by
  induction gs generalizing s with
  | nil => rfl
  | cons g gs ih =>
    simp only [List.mem_cons, not_or] at h
    rw [List.foldl_cons, ih _ h.2, State.lose_resk _ _ (Ne.symm h.1)]

@[simp] theorem State.raise_ilen (s : State) (e : ErrKind) (gs : List Group) : (s.raise e gs).ilen = s.ilen := State.foldl_lose_ilen gs _
@[simp] theorem State.raise_size (s : State) (e : ErrKind) (gs : List Group) : (s.raise e gs).size = s.size := State.foldl_lose_size gs _
@[simp] theorem State.raise_arg (s : State) (e : ErrKind) (gs : List Group) : (s.raise e gs).arg = s.arg := State.foldl_lose_arg gs _
@[simp] theorem State.raise_argk (s : State) (e : ErrKind) (gs : List Group) : (s.raise e gs).argk = s.argk := State.foldl_lose_argk gs _
@[simp] theorem State.raise_cmd (s : State) (e : ErrKind) (gs : List Group) : (s.raise e gs).cmd = s.cmd := State.foldl_lose_cmd gs _
@[simp] theorem State.raise_ibuf (s : State) (e : ErrKind) (gs : List Group) : (s.raise e gs).ibuf = s.ibuf := State.foldl_lose_ibuf gs _
@[simp] theorem State.raise_obuf (s : State) (e : ErrKind) (gs : List Group) : (s.raise e gs).obuf = s.obuf := State.foldl_lose_obuf gs _
@[simp] theorem State.raise_events (s : State) (e : ErrKind) (gs : List Group) : (s.raise e gs).events = s.events := State.foldl_lose_events gs _
@[simp] theorem State.raise_rdata (s : State) (e : ErrKind) (gs : List Group) : (s.raise e gs).rdata = s.rdata := State.foldl_lose_rdata gs _
@[simp] theorem State.raise_hostX (s : State) (e : ErrKind) (gs : List Group) : (s.raise e gs).hostX = s.hostX := State.foldl_lose_hostX gs _
@[simp] theorem State.raise_hostY (s : State) (e : ErrKind) (gs : List Group) : (s.raise e gs).hostY = s.hostY := State.foldl_lose_hostY gs _
@[simp] theorem State.raise_sent (s : State) (e : ErrKind) (gs : List Group) : (s.raise e gs).sent = s.sent := State.foldl_lose_sent gs _
@[simp] theorem State.raise_err (s : State) (e : ErrKind) (gs : List Group) : (s.raise e gs).err = e.code := State.foldl_lose_err gs _
@[simp] theorem State.raise_errb (s : State) (e : ErrKind) (gs : List Group) : (s.raise e gs).errb = e.info := State.foldl_lose_errb gs _
@[simp] theorem State.raise_cValid (s : State) (e : ErrKind) (gs : List Group) :
    (s.raise e gs).cValid = (s.cValid && decide (Group.c ∉ gs)) := State.foldl_lose_cValid gs _
@[simp] theorem State.raise_fValid (s : State) (e : ErrKind) (gs : List Group) :
    (s.raise e gs).fValid = (s.fValid && decide (Group.f ∉ gs)) := State.foldl_lose_fValid gs _
@[simp] theorem State.raise_oValid (s : State) (e : ErrKind) (gs : List Group) :
    (s.raise e gs).oValid = (s.oValid && decide (Group.o ∉ gs)) := State.foldl_lose_oValid gs _
@[simp] theorem State.raise_rValid (s : State) (e : ErrKind) (gs : List Group) :
    (s.raise e gs).rValid = (s.rValid && decide (Group.r ∉ gs)) := State.foldl_lose_rValid gs _
theorem State.raise_csum (s : State) (e : ErrKind) (gs : List Group) (h : Group.c ∉ gs) : (s.raise e gs).csum = s.csum :=
  State.foldl_lose_csum gs _ h
theorem State.raise_fLength (s : State) (e : ErrKind) (gs : List Group) (h : Group.f ∉ gs) : (s.raise e gs).fLength = s.fLength :=
  State.foldl_lose_fLength gs _ h
theorem State.raise_fOpKind (s : State) (e : ErrKind) (gs : List Group) (h : Group.f ∉ gs) : (s.raise e gs).fOpKind = s.fOpKind :=
  State.foldl_lose_fOpKind gs _ h
theorem State.raise_fOpByte (s : State) (e : ErrKind) (gs : List Group) (h : Group.f ∉ gs) : (s.raise e gs).fOpByte = s.fOpByte :=
  State.foldl_lose_fOpByte gs _ h
theorem State.raise_fSource (s : State) (e : ErrKind) (gs : List Group) (h : Group.f ∉ gs) : (s.raise e gs).fSource = s.fSource :=
  State.foldl_lose_fSource gs _ h
theorem State.raise_fStatus (s : State) (e : ErrKind) (gs : List Group) (h : Group.f ∉ gs) : (s.raise e gs).fStatus = s.fStatus :=
  State.foldl_lose_fStatus gs _ h
theorem State.raise_fDoff (s : State) (e : ErrKind) (gs : List Group) (h : Group.f ∉ gs) : (s.raise e gs).fDoff = s.fDoff :=
  State.foldl_lose_fDoff gs _ h
theorem State.raise_fDlen (s : State) (e : ErrKind) (gs : List Group) (h : Group.f ∉ gs) : (s.raise e gs).fDlen = s.fDlen :=
  State.foldl_lose_fDlen gs _ h
theorem State.raise_olen (s : State) (e : ErrKind) (gs : List Group) (h : Group.o ∉ gs) : (s.raise e gs).olen = s.olen :=
  State.foldl_lose_olen gs _ h
theorem State.raise_res (s : State) (e : ErrKind) (gs : List Group) (h : Group.r ∉ gs) : (s.raise e gs).res = s.res :=
  State.foldl_lose_res gs _ h
theorem State.raise_resk (s : State) (e : ErrKind) (gs : List Group) (h : Group.r ∉ gs) : (s.raise e gs).resk = s.resk :=
  State.foldl_lose_resk gs _ h

end Sys2Proof.Machine
end

