-- ==== Sys2Proof/Laws/Ops.lean ====
section
/-!
SUPPORT. For each shared operation of the machine, once, everything it can do. A proof about a step cites these and does
not unfold the operation.
-/

namespace Sys2Proof.Machine

variable {s t : State}

theorem State.badLength_iff (s : State) : s.badLength = true ↔ Config.maxMsg < s.ilen := Config.tooLong_iff _

theorem State.badLength_false_iff (s : State) : s.badLength = false ↔ s.ilen ≤ Config.maxMsg := Config.tooLong_false_iff _

theorem outside_iff (a : Nat) : outside a = true ↔ Config.maxMsg ≤ a := by
  unfold outside
  rw [Config.tooLong_iff]
  omega

/-- Everything CSUM can do. -/
theorem execCsum_next (h : execCsum s = .next t) :
    (Config.maxMsg < s.ilen ∧ t = s.raise .badCommand [.c]) ∨
    (s.ilen ≤ Config.maxMsg ∧ ∃ payload, s.operandBytes = some payload ∧
      t = (s.setCsum (calcChecksum s.size payload)).succeed) := by
  unfold execCsum at h
  split at h
  · next hb => exact .inl ⟨s.badLength_iff.1 hb, (Host.Outcome.next.inj h).symm⟩
  · next hb =>
    split at h
    · cases h
    · next payload hp =>
      exact .inr ⟨s.badLength_false_iff.1 (by simpa using hb), payload, hp, (Host.Outcome.next.inj h).symm⟩

/-- Everything the engine can do for DECODE. -/
theorem State.runDecode_next (h : s.runDecode = .next t) :
    (Config.maxMsg < s.ilen ∧ t = s.raise .badCommand [.f, .c]) ∨
    (s.ilen < 4 ∧ t = s.raise .invalidMessageLength [.f, .c]) ∨
    (4 ≤ s.ilen ∧ s.ilen ≤ Config.maxMsg ∧ ∃ m, s.operandBytes = some m ∧ t = s.decodeOperand m) := by
  unfold State.runDecode at h
  split at h
  · next hb => exact .inl ⟨s.badLength_iff.1 hb, (Host.Outcome.next.inj h).symm⟩
  · next hb =>
    split at h
    · next h4 => exact .inr (.inl ⟨h4, (Host.Outcome.next.inj h).symm⟩)
    · next h4 =>
      split at h
      · cases h
      · next m hm =>
        exact .inr (.inr ⟨by omega, s.badLength_false_iff.1 (by simpa using hb), m, hm, (Host.Outcome.next.inj h).symm⟩)

/-- Everything DECODE can do once the checksum is computed. -/
theorem State.decodeOperand_cases (s : State) (m : List Byte) :
    let summed := s.setCsum (calcChecksum (byteAt m 0) (payloadOf m))
    (checksumOk m = false ∧ s.decodeOperand m = summed.raise .invalidChecksum [.f]) ∨
    (checksumOk m = true ∧ m.length < 6 ∧ s.decodeOperand m = summed.raise .invalidMessageLength [.f]) ∨
    (checksumOk m = true ∧ 6 ≤ m.length ∧ sourceOfByte (byteAt m 2) = none ∧
      s.decodeOperand m = summed.raise (.invalidSource (byteAt m 2)) [.f]) ∨
    (checksumOk m = true ∧ 6 ≤ m.length ∧ ∃ source, sourceOfByte (byteAt m 2) = some source ∧
      s.decodeOperand m =
        summed.setFrame (byteAt m 0) (byteAt m 1) (sourceBit source) (byteAt m 3) (m.length - 6)) := by
  intro summed
  unfold State.decodeOperand checksumOk
  simp only [State.setCsum_csum, beq_iff_eq, beq_eq_false_iff_ne, ne_eq]
  by_cases hc : calcChecksum (byteAt m 0) (payloadOf m) = rxChecksum (checksumHi m) (checksumLo m)
  · by_cases h6 : m.length < 6
    · exact .inr (.inl ⟨hc, h6, by simp [hc, h6, summed]⟩)
    · cases hs : sourceOfByte (byteAt m 2) with
      | none => exact .inr (.inr (.inl ⟨hc, by omega, rfl, by simp [hc, h6, summed]⟩))
      | some source => exact .inr (.inr (.inr ⟨hc, by omega, source, rfl, by simp [hc, h6, summed]⟩))
  · exact .inl ⟨hc, by simp [hc, summed]⟩

/-- Everything WRAP can do. -/
theorem execWrap_next (h : execWrap s = .next t) :
    (Config.maxMsg < s.ilen ∧ t = s.raise .badCommand [.o, .c]) ∨
    (253 < s.ilen ∧ s.ilen ≤ Config.maxMsg ∧ t = s.raise .fieldsTooLong [.o, .c]) ∨
    (s.ilen ≤ 253 ∧ ∃ fields, s.operandBytes = some fields ∧ t = s.wrapOperand fields) := by
  unfold execWrap at h
  split at h
  · next hb => exact .inl ⟨s.badLength_iff.1 hb, (Host.Outcome.next.inj h).symm⟩
  · next hb =>
    have hb := s.badLength_false_iff.1 (by simpa using hb)
    split at h
    · next hk => exact .inr (.inl ⟨hk, hb, (Host.Outcome.next.inj h).symm⟩)
    · next hk =>
      split at h
      · cases h
      · next fields hf => exact .inr (.inr ⟨by omega, fields, hf, (Host.Outcome.next.inj h).symm⟩)

/-- Everything SRCDEC can do. -/
theorem execSrcdec_next (h : execSrcdec s = .next t) :
    (∃ source, sourceOfByte s.arg = some source ∧ t = s.setResult s.arg (kindOfSource source)) ∨
    (sourceOfByte s.arg = none ∧ t = s.raise (.invalidSource s.arg) [.r]) := by
  unfold execSrcdec at h
  split at h
  · next source hs => exact .inl ⟨source, hs, (Host.Outcome.next.inj h).symm⟩
  · next hs => exact .inr ⟨hs, (Host.Outcome.next.inj h).symm⟩

/-- Everything SRCENC can do. -/
theorem execSrcenc_next (h : execSrcenc s = .next t) :
    (∃ source, s.sourceOperand = some source ∧ t = s.setResult (byteOfSource source) s.argk) ∨
    (s.sourceOperand = none ∧ t = s.raise .badCommand [.r]) := by
  unfold execSrcenc at h
  split at h
  · next source hs => exact .inl ⟨source, hs, (Host.Outcome.next.inj h).symm⟩
  · next hs => exact .inr ⟨hs, (Host.Outcome.next.inj h).symm⟩

/-- Everything CTDEC can do. -/
theorem execCtdec_next (h : execCtdec s = .next t) :
    (Config.ctSet s.arg = true ∧ t = s.setResult s.arg 1#2) ∨
    (Config.ctSet s.arg = false ∧ t = s.raise (.unrecognizedContentType s.arg) [.r]) := by
  unfold execCtdec contentTypeOfByte at h
  by_cases hc : ctRom s.arg = true
  · rw [dif_pos hc] at h
    exact .inl ⟨hc, (Host.Outcome.next.inj h).symm⟩
  · rw [dif_neg hc] at h
    exact .inr ⟨by simpa [ctRom] using hc, (Host.Outcome.next.inj h).symm⟩

/-- Everything the arrival of a message can do. -/
theorem State.receive_next {m : List Byte} (h : s.receive m = .next t) :
    m.length ≤ Config.maxMsg ∧ (s.loadMessage m).runDecode = .next t := by
  unfold State.receive at h
  split at h
  · cases h
  · next hl => exact ⟨(Config.tooLong_false_iff _).1 (by simpa using hl), h⟩

/-- A message that fits is loaded whole: it is the operand of the DECODE that follows. -/
theorem State.loadMessage_operand (s : State) (m : List Byte) (h : m.length ≤ Config.maxMsg) :
    (s.loadMessage m).ilen = m.length ∧ (s.loadMessage m).operandBytes = some m := by
  have hl : (s.loadMessage m).ilen = m.length := by
    simp [Config.lenTrunc_of_le h]
  refine ⟨hl, ?_⟩
  unfold State.operandBytes
  rw [hl, State.loadMessage_ibuf]
  exact Mem.readList_writeList _ _ _

/-- The row a message matches decides nothing: a message that matches a row is received like any other. -/
theorem exec_decodeFrame {field : Field} {m : List Byte} {i : Instr} (h : decodeFrame field m = .ok i) (s : State) :
    exec i s = s.receive m := by
  match m with
  | [] => cases field <;> cases h
  | [_] => cases field <;> cases h
  | [_, _] => cases field <;> cases h
  | [_, _, _] => cases field <;> cases h
  | l :: o :: src :: st :: rest =>
    cases field <;> simp only [decodeFrame] at h
    · split at h
      · next e => cases h; subst e; rfl
      · split at h
        · next e => cases h; subst e; rfl
        · split at h
          · next e => cases h; subst e; rfl
          · cases h; rfl
    · split at h
      · next e => cases h; subst e; rfl
      · split at h
        · next e => cases h; subst e; rfl
        · cases h
    · split at h
      · cases h; rfl
      · split at h
        · cases h; rfl
        · split at h
          · cases h; rfl
          · cases h

/-- A message arrives in the same way whichever of its header fields it is looked at through. -/
theorem State.receiveRow_eq (s : State) (field : Field) (m : List Byte) : s.receiveRow field m = s.receive m := by
  unfold State.receiveRow
  split
  · next i h => exact exec_decodeFrame h s
  · rfl

/-- Everything a host write can do. -/
theorem State.hostWrite_next {port : Port} {v : Nat} (h : s.hostWrite port v = .next t) :
    (port = .ilen ∧ t = { s with ilen := Config.lenTrunc v }) ∨
    (port = .size ∧ t = { s with size := BitVec.ofNat 8 v }) ∨
    (port = .arg ∧ t = { s with arg := BitVec.ofNat 8 v }) ∨
    (port = .argk ∧ t = { s with argk := BitVec.ofNat 2 v }) ∨
    (port = .cmd ∧ t = { s with cmd := some (BitVec.ofNat 4 v) }) ∨
    (∃ a, port = .ibuf a ∧ a < Config.maxMsg ∧ t = { s with ibuf := s.ibuf.write a (BitVec.ofNat 8 v) }) ∨
    t = s := by
  cases port with
  | ibuf a =>
    simp only [State.hostWrite] at h
    split at h
    · cases h
    · next ho =>
      rw [outside_iff] at ho
      refine .inr (.inr (.inr (.inr (.inr (.inl ⟨a, rfl, by omega, (Host.Outcome.next.inj h).symm⟩)))))
  | obuf a =>
    simp only [State.hostWrite] at h
    split at h
    · cases h
    · exact .inr (.inr (.inr (.inr (.inr (.inr (Host.Outcome.next.inj h).symm)))))
  | ilen => exact .inl ⟨rfl, (Host.Outcome.next.inj h).symm⟩
  | size => exact .inr (.inl ⟨rfl, (Host.Outcome.next.inj h).symm⟩)
  | arg => exact .inr (.inr (.inl ⟨rfl, (Host.Outcome.next.inj h).symm⟩))
  | argk => exact .inr (.inr (.inr (.inl ⟨rfl, (Host.Outcome.next.inj h).symm⟩)))
  | cmd => exact .inr (.inr (.inr (.inr (.inl ⟨rfl, (Host.Outcome.next.inj h).symm⟩))))
  | _ => exact .inr (.inr (.inr (.inr (.inr (.inr (Host.Outcome.next.inj h).symm)))))

/-- Keeping a value in a variable of the host changes nothing but that variable. -/
theorem State.setHostVar_eq (s : State) (var : HostVar) (v : Nat) :
    s.setHostVar var v = { s with hostX := (s.setHostVar var v).hostX, hostY := (s.setHostVar var v).hostY } := by
  cases var <;> rfl

theorem State.hostVar_setHostVar (s : State) (var : HostVar) (v : Nat) : (s.setHostVar var v).hostVar var = v := by
  cases var <;> rfl

theorem State.hostVar_setHostVar_other (s : State) (var var' : HostVar) (v : Nat) (h : var' ≠ var) :
    (s.setHostVar var v).hostVar var' = s.hostVar var' := by
  cases var <;> cases var' <;> first | rfl | exact absurd rfl h

/-- Everything one step can be: the engine executes a pending command, nothing is left to do, or the host steps. -/
theorem State.advance_next (h : s.advance = .next t) :
    (∃ code, s.cmd = some code ∧ State.engineStep { s with cmd := none } code = .next t) ∨
    (s.cmd = none ∧ s.events = [] ∧ t = s) ∨
    (s.cmd = none ∧ ∃ e rest, s.events = e :: rest ∧ State.hostStep { s with events := rest } e = .next t) := by
  unfold State.advance at h
  split at h
  · next code hc => exact .inl ⟨code, hc, h⟩
  · next hc =>
    split at h
    · next he => exact .inr (.inl ⟨hc, he, (Host.Outcome.next.inj h).symm⟩)
    · next e rest he => exact .inr (.inr ⟨hc, e, rest, he, h⟩)

/-- Everything the engine can do for a code: the command it names, or BadCommand. -/
theorem State.engineStep_next {code : BitVec 4} (h : s.engineStep code = .next t) :
    (∃ i, decodeCommand code = .ok i ∧ exec i s = .next t) ∨
    ((∃ e, decodeCommand code = .error e) ∧ t = s.raise .badCommand []) := by
  unfold State.engineStep at h
  split at h
  · next i hi => exact .inl ⟨i, hi, h⟩
  · next e he => exact .inr ⟨⟨e, he⟩, (Host.Outcome.next.inj h).symm⟩

end Sys2Proof.Machine
end

