-- ==== Sys2Proof/Laws/PerInstr.lean ====
section
/-!
SUPPORT. The family EncodingSize: how many bytes a well-formed instruction has. A command is one code (30_encoding R88); a
frame row's message has a whole header (30_encoding R70) and fits IBUF (20_memory R50).
-/

namespace Sys2Proof.Laws.EncodingSize

def Statement (i : Instr) : Prop :=
  i.wellFormed = true →
    match formatOf i with
    | .command => (encode i).length = 1
    | .frame _ => 4 ≤ (encode i).length ∧ (encode i).length ≤ Config.maxMsg

theorem fits {rest : List Byte} (h : messageFits rest = true) :
    4 ≤ rest.length + 1 + 1 + 1 + 1 ∧ rest.length + 1 + 1 + 1 + 1 ≤ Config.maxMsg := by
  unfold messageFits at h
  have := (Config.tooLong_false_iff _).1 (by simpa using h)
  omega

theorem ack (length source status : Byte) (rest : List Byte) : Statement (.ack length source status rest) :=
  fun h => fits h

theorem nack (length source status : Byte) (rest : List Byte) : Statement (.nack length source status rest) :=
  fun h => fits h

theorem decodeData (length source status : Byte) (rest : List Byte) :
    Statement (.decodeData length source status rest) :=
  fun h => fits h

theorem other (length opcode source status : Byte) (rest : List Byte) :
    Statement (.other length opcode source status rest) := by
  intro h
  simp only [Instr.wellFormed, Bool.and_eq_true] at h
  exact fits h.2

theorem srcScanner (length opcode status : Byte) (rest : List Byte) :
    Statement (.srcScanner length opcode status rest) :=
  fun h => fits h

theorem srcHost (length opcode status : Byte) (rest : List Byte) : Statement (.srcHost length opcode status rest) :=
  fun h => fits h

theorem stRetransmit (length opcode source status : Byte) (rest : List Byte) :
    Statement (.stRetransmit length opcode source status rest) := by
  intro h
  simp only [Instr.wellFormed, Bool.and_eq_true] at h
  exact fits h.2

theorem stContinuation (length opcode source status : Byte) (rest : List Byte) :
    Statement (.stContinuation length opcode source status rest) := by
  intro h
  simp only [Instr.wellFormed, Bool.and_eq_true] at h
  exact fits h.2

theorem stChangeType (length opcode source status : Byte) (rest : List Byte) :
    Statement (.stChangeType length opcode source status rest) := by
  intro h
  simp only [Instr.wellFormed, Bool.and_eq_true] at h
  exact fits h.2

theorem csum : Statement .csum := fun _ => rfl

theorem decode : Statement .decode := fun _ => rfl

theorem wrap : Statement .wrap := fun _ => rfl

theorem opdec : Statement .opdec := fun _ => rfl

theorem openc : Statement .openc := fun _ => rfl

theorem srcdec : Statement .srcdec := fun _ => rfl

theorem srcenc : Statement .srcenc := fun _ => rfl

theorem stdec : Statement .stdec := fun _ => rfl

theorem ctdec : Statement .ctdec := fun _ => rfl

end Sys2Proof.Laws.EncodingSize
end

