-- ==== Sys2Proof/Laws/Steps.lean ====
section
/-!
SUPPORT. Several steps: how runs add up, what one step is, and what the host's lists of writes leave (30_encoding R90).
-/

namespace Sys2Proof.Machine

variable {s t : State}

theorem runSteps_succ (n : Nat) (h : step s = .next t) : runSteps (n + 1) s = runSteps n t := by
  rw [runSteps, h]

theorem runSteps_one (h : step s = .next t) : runSteps 1 s = .next t := runSteps_succ 0 h

theorem runSteps_add (m n : Nat) (h : runSteps m s = .next t) : runSteps (m + n) s = runSteps n t := by
  induction m generalizing s with
  | zero =>
    cases h
    rw [Nat.zero_add]
  | succ m ih =>
    rw [runSteps] at h
    split at h
    · next u hs =>
      rw [Nat.succ_add, runSteps_succ _ hs]
      exact ih h
    · cases h
    · cases h

/-- With nothing pending a step is the host's next one. -/
theorem step_host {e : Event} {rest : List Event} (hc : s.cmd = none) (he : s.events = e :: rest) :
    step s = State.hostStep { s with events := rest } e := by
  unfold step State.advance
  rw [hc, he]

/-- The same for a state written with its events. -/
theorem step_events (s : State) (e : Event) (rest : List Event) (hc : s.cmd = none) :
    step { s with events := e :: rest } = State.hostStep { s with events := rest } e :=
  step_host (s := { s with events := e :: rest }) hc rfl

/-- With a code pending a step is the engine's. -/
theorem step_engine {code : BitVec 4} (hc : s.cmd = some code) : step s = State.engineStep { s with cmd := none } code := by
  unfold step State.advance
  rw [hc]

/-- A host write of a byte to an offset inside IBUF. -/
theorem State.hostWrite_ibuf {a : Nat} (b : Byte) (ha : a < Config.maxMsg) :
    s.hostWrite (.ibuf a) b.toNat = .next { s with ibuf := s.ibuf.write a b } := by
  have ho : outside a = false := by
    rw [← Bool.not_eq_true, outside_iff]
    omega
  simp [State.hostWrite, ho]

/-- The byte writes leave the bytes at their offsets and nothing else. -/
theorem runSteps_byteWrites (bytes : List Byte) (a : Nat) (rest : List Event) (hc : s.cmd = none)
    (he : s.events = byteWrites a bytes ++ rest) (hf : a + bytes.length ≤ Config.maxMsg) :
    runSteps bytes.length s = .next { s with ibuf := s.ibuf.writeList a bytes, events := rest } := by
  induction bytes generalizing a s with
  | nil =>
    obtain rfl : rest = s.events := by simpa [byteWrites] using he.symm
    rfl
  | cons b bytes ih =>
    rw [List.length_cons] at hf ⊢
    have h1 : step s = .next { s with ibuf := s.ibuf.write a b, events := byteWrites (a + 1) bytes ++ rest } := by
      rw [step_host hc he]
      exact State.hostWrite_ibuf b (by omega)
    rw [runSteps_succ _ h1]
    exact ih (a + 1) hc rfl (by omega)

/-- `IBUF <- [b0, b1, ...]` loads the message (30_encoding R90). -/
theorem runSteps_loadEvents (bytes : List Byte) (rest : List Event) (hc : s.cmd = none)
    (he : s.events = loadEvents bytes ++ rest) (hf : bytes.length ≤ Config.maxMsg) :
    runSteps (bytes.length + 1) s = .next { s.loadMessage bytes with events := rest } := by
  have he' : s.events = byteWrites 0 bytes ++ (.write .ilen bytes.length :: rest) := by
    rw [he, loadEvents, List.append_assoc, List.singleton_append]
  rw [runSteps_add _ 1 (runSteps_byteWrites bytes 0 _ hc he' (by omega))]
  exact runSteps_one (step_events { s with ibuf := s.ibuf.writeList 0 bytes } _ _ hc)

/-- What SEND and the loopback read of a valid output (30_encoding R90). -/
theorem State.outputBytes_of_valid {frame : List Byte} (hv : s.oValid = true)
    (hf : s.obuf.readList 0 s.olen = some frame) : s.outputBytes = frame := by
  obtain ⟨hl, hr⟩ := (Mem.readList_eq_some _ _ _ _).1 hf
  apply List.ext_getElem
  · simp [State.outputBytes, State.readGroup, hv, hl]
  · intro i h1 h2
    have hi : i < s.olen := hl ▸ h2
    have hb : s.obuf.read i = some frame[i] := by simpa [List.getElem?_eq_getElem h2] using hr i hi
    simp [State.outputBytes, State.readGroup, State.readOutput, hv, hb, hi]

end Sys2Proof.Machine
end

