-- ==== Sys2Proof/Tests/Slice0.lean ====
section
/-!
SUPPORT. Tests and witnesses. The tests' expected values come from 95_test_vectors (the vector is named before each) and
from the encodings of 30_encoding; each runs one step. The witnesses show that the hypotheses of each statement of
Certificates/Slice0/Obligations.lean are met together.
-/

namespace Sys2Proof.Tests

open Sys2Proof.Machine

/-! ## Helpers -/

/-- The next state has a property. -/
def after (o : Host.Outcome State Fault Refusal) (p : State → Bool) : Bool :=
  match o with
  | .next t => p t
  | .fault _ => false
  | .refused _ => false

/-- The next state, `s` itself where there is none. -/
def nextOf (o : Host.Outcome State Fault Refusal) (s : State) : State :=
  match o with
  | .next t => t
  | .fault _ => s
  | .refused _ => s

/-- The state after reset with a message in IBUF. -/
def loaded (bytes : List Byte) : State := State.reset.loadMessage bytes

/-- The state after reset with the table commands' operands. -/
def withArg (arg : Byte) (argk : BitVec 2) : State := { State.reset with arg := arg, argk := argk }

/-- `ERR`, `ERRB`. -/
def failed (e : BitVec 3) (b : Byte) (t : State) : Bool := t.err == e && t.errb == b

/-- The Ack frame of V40 and V54. -/
def ackFrame : List Byte := [0x04#8, 0xD0#8, 0x04#8, 0x00#8, 0xFF#8, 0x28#8]

/-- The message of V41. -/
def nackFrame : List Byte := [0x04#8, 0xD1#8, 0x00#8, 0x01#8, 0xFF#8, 0x2A#8]

/-- The document's example, V1. -/
def exampleFrame : List Byte := [0x06#8, 0xF3#8, 0x00#8, 0x00#8, 0x41#8, 0xFE#8, 0xC6#8]

/-- The message of V43. -/
def otherFrame : List Byte := [0x05#8, 0xC6#8, 0x04#8, 0x08#8, 0x01#8, 0xFF#8, 0x28#8]

/-- The message of V63. -/
def continuationFrame : List Byte := [0x07#8, 0xF3#8, 0x00#8, 0x02#8, 0x03#8, 0x41#8, 0x42#8, 0xFE#8, 0x7E#8]

/-! ## Ill-formed terms, each refused -/

theorem test_wellFormed_commands :
    (Instr.csum.wellFormed && Instr.decode.wellFormed && Instr.wrap.wellFormed && Instr.opdec.wellFormed
      && Instr.openc.wellFormed && Instr.srcdec.wellFormed && Instr.srcenc.wellFormed && Instr.stdec.wellFormed
      && Instr.ctdec.wellFormed) = true := by decide

theorem test_wellFormed_other : (Instr.other 0x05#8 0xC6#8 0x04#8 0x08#8 [0x01#8, 0xFF#8, 0x28#8]).wellFormed = true := by
  decide

theorem test_illFormed_other_named_opcode :
    (Instr.other 0x04#8 0xD0#8 0x04#8 0x00#8 []).wellFormed = false
      ∧ (Instr.other 0x04#8 0xD1#8 0x04#8 0x00#8 []).wellFormed = false
      ∧ (Instr.other 0x04#8 0xF3#8 0x04#8 0x00#8 []).wellFormed = false := by decide

theorem test_illFormed_retransmit_bit_clear : (Instr.stRetransmit 0x04#8 0xD0#8 0x04#8 0x0A#8 []).wellFormed = false := by
  decide

theorem test_illFormed_continuation :
    (Instr.stContinuation 0x04#8 0xD0#8 0x04#8 0x08#8 []).wellFormed = false
      ∧ (Instr.stContinuation 0x04#8 0xD0#8 0x04#8 0x03#8 []).wellFormed = false := by decide

theorem test_illFormed_changeType :
    (Instr.stChangeType 0x04#8 0xD0#8 0x04#8 0x04#8 []).wellFormed = false
      ∧ (Instr.stChangeType 0x04#8 0xD0#8 0x04#8 0x09#8 []).wellFormed = false
      ∧ (Instr.stChangeType 0x04#8 0xD0#8 0x04#8 0x0A#8 []).wellFormed = false := by decide

/-- A message longer than IBUF is no instruction, under any row. -/
theorem test_illFormed_too_long (l a b c : Byte) (rest : List Byte) (h : Config.maxMsg < rest.length + 4) :
    (Instr.ack l a b rest).wellFormed = false ∧ (Instr.nack l a b rest).wellFormed = false
      ∧ (Instr.decodeData l a b rest).wellFormed = false ∧ (Instr.other l 0xC6#8 a b rest).wellFormed = false
      ∧ (Instr.srcScanner l a b rest).wellFormed = false ∧ (Instr.srcHost l a b rest).wellFormed = false
      ∧ (Instr.stRetransmit l a b c rest).wellFormed = false ∧ (Instr.stContinuation l a b c rest).wellFormed = false
      ∧ (Instr.stChangeType l a b c rest).wellFormed = false := by
  have hf : messageFits rest = false := by simp [messageFits, (Config.tooLong_iff (rest.length + 4)).2 h]
  simp [Instr.wellFormed, hf]

theorem test_too_long_exists : Config.maxMsg < (List.replicate Config.maxMsg (0x00#8 : Byte)).length + 4 := by
  rw [List.length_replicate]
  omega

/-! ## Decoding, each word written out from 30_encoding -/

/-- 30_encoding R88: the nine codes. -/
theorem test_decode_commands :
    decodeBytes .command [0x01#8] = .ok .csum ∧ decodeBytes .command [0x02#8] = .ok .decode
      ∧ decodeBytes .command [0x03#8] = .ok .wrap ∧ decodeBytes .command [0x04#8] = .ok .opdec
      ∧ decodeBytes .command [0x05#8] = .ok .openc ∧ decodeBytes .command [0x06#8] = .ok .srcdec
      ∧ decodeBytes .command [0x07#8] = .ok .srcenc ∧ decodeBytes .command [0x08#8] = .ok .stdec
      ∧ decodeBytes .command [0x09#8] = .ok .ctdec := by decide

/-- 30_encoding R89, and what is no 4-bit code. -/
theorem test_decode_no_command :
    decodeBytes .command [0x00#8] = .error (.unassignedCommand 0x0#4)
      ∧ decodeBytes .command [0x0A#8] = .error (.unassignedCommand 0xA#4)
      ∧ decodeBytes .command [0x0F#8] = .error (.unassignedCommand 0xF#4)
      ∧ decodeBytes .command [0x11#8] = .error .notOneCode ∧ decodeBytes .command [] = .error .notOneCode
      ∧ decodeBytes .command [0x01#8, 0x02#8] = .error .notOneCode := by decide

/-- 30_encoding R80. -/
theorem test_decode_opcode_rows :
    decodeBytes (.frame .opcode) ackFrame = .ok (.ack 0x04#8 0x04#8 0x00#8 [0xFF#8, 0x28#8])
      ∧ decodeBytes (.frame .opcode) nackFrame = .ok (.nack 0x04#8 0x00#8 0x01#8 [0xFF#8, 0x2A#8])
      ∧ decodeBytes (.frame .opcode) exampleFrame = .ok (.decodeData 0x06#8 0x00#8 0x00#8 [0x41#8, 0xFE#8, 0xC6#8])
      ∧ decodeBytes (.frame .opcode) otherFrame = .ok (.other 0x05#8 0xC6#8 0x04#8 0x08#8 [0x01#8, 0xFF#8, 0x28#8]) := by
  decide

/-- 30_encoding R81, R85. -/
theorem test_decode_source_rows :
    decodeBytes (.frame .source) nackFrame = .ok (.srcScanner 0x04#8 0xD1#8 0x01#8 [0xFF#8, 0x2A#8])
      ∧ decodeBytes (.frame .source) ackFrame = .ok (.srcHost 0x04#8 0xD0#8 0x00#8 [0xFF#8, 0x28#8])
      ∧ decodeBytes (.frame .source) [0x04#8, 0xD0#8, 0x01#8, 0x00#8] = .error (.reservedSource 0x01#8)
      ∧ decodeBytes (.frame .source) [0x04#8, 0xD0#8, 0x05#8, 0x00#8] = .error (.reservedSource 0x05#8) := by decide

/-- 30_encoding R82, R86. -/
theorem test_decode_status_rows :
    decodeBytes (.frame .status) nackFrame = .ok (.stRetransmit 0x04#8 0xD1#8 0x00#8 0x01#8 [0xFF#8, 0x2A#8])
      ∧ decodeBytes (.frame .status) continuationFrame
          = .ok (.stContinuation 0x07#8 0xF3#8 0x00#8 0x02#8 [0x03#8, 0x41#8, 0x42#8, 0xFE#8, 0x7E#8])
      ∧ decodeBytes (.frame .status) otherFrame
          = .ok (.stChangeType 0x05#8 0xC6#8 0x04#8 0x08#8 [0x01#8, 0xFF#8, 0x28#8])
      ∧ decodeBytes (.frame .status) [0x04#8, 0xD0#8, 0x04#8, 0xF4#8] = .error .noNamedFlag
      ∧ decodeBytes (.frame .status) [0x04#8, 0xD0#8, 0x04#8] = .error .headerIncomplete := by decide

/-- 30_encoding R92: a word of each frame row of the opcode table. -/
theorem test_decodeTableWord_frames :
    (decodeTableWord 24 0x00D00000).map mnemonicOf = some "ACK"
      ∧ (decodeTableWord 24 0x00D10000).map mnemonicOf = some "NACK"
      ∧ (decodeTableWord 24 0x00F30000).map mnemonicOf = some "DECODE_DATA"
      ∧ (decodeTableWord 32 0x00000000).map mnemonicOf = some "OTHER"
      ∧ (decodeTableWord 16 0x00000000).map mnemonicOf = some "SRC_SCANNER"
      ∧ (decodeTableWord 16 0x00000400).map mnemonicOf = some "SRC_HOST"
      ∧ (decodeTableWord 32 0x00000001).map mnemonicOf = some "ST_RETRANSMIT"
      ∧ (decodeTableWord 32 0x00000002).map mnemonicOf = some "ST_CONTINUATION"
      ∧ (decodeTableWord 32 0x00000008).map mnemonicOf = some "ST_CHANGETYPE" := by decide

theorem test_decodeTableWord_commands :
    decodeTableWord 8 0x1 = some .csum ∧ decodeTableWord 8 0x2 = some .decode ∧ decodeTableWord 8 0x3 = some .wrap
      ∧ decodeTableWord 8 0x4 = some .opdec ∧ decodeTableWord 8 0x5 = some .openc ∧ decodeTableWord 8 0x6 = some .srcdec
      ∧ decodeTableWord 8 0x7 = some .srcenc ∧ decodeTableWord 8 0x8 = some .stdec ∧ decodeTableWord 8 0x9 = some .ctdec
      ∧ decodeTableWord 8 0x0 = none := by decide

/-- The very next step runs the placed instruction: OPDEC right after reset gives the kind of the byte 0. -/
theorem test_withFetchWord_command :
    after (step (State.reset.withFetchWord 8 0x4)) (fun t => t.rValid && t.resk == 3#2 && t.cmd == none) = true := by decide

/-- The same for a message: the header `00 D0 00 00` and two zero bytes have a bad checksum, so `ERR` = 2. -/
theorem test_withFetchWord_frame :
    after (step (State.reset.withFetchWord 24 0x00D00000)) (fun t => failed 2#3 0x00#8 t && t.ilen == 6) = true := by decide

/-! ## Encoding -/

/-- The Ack of 43_encoder R175 and the code of WRAP. -/
theorem test_encode :
    encode (.ack 0x04#8 0x04#8 0x00#8 [0xFF#8, 0x28#8]) = ackFrame ∧ encode .wrap = [0x03#8]
      ∧ encode (.srcHost 0x04#8 0xD0#8 0x00#8 [0xFF#8, 0x28#8]) = ackFrame := by decide

/-! ## CSUM -/

/-- V13. -/
theorem test_csum_example :
    after (exec .csum { loaded [0xF3#8, 0x00#8, 0x00#8, 0x41#8] with size := 0x06#8 })
      (fun t => t.csum == 0x013A#16 && t.cValid && failed 0#3 0x00#8 t) = true := by decide

/-- V12: the carry into the high byte. -/
theorem test_csum_carry :
    after (exec .csum { loaded [0xFF#8] with size := 0x01#8 }) (fun t => t.csum == 0x0100#16) = true := by decide

/-- V20e to V20g: the negation around 0x8000, in both directions. -/
theorem test_negation :
    txChecksum 0x7FFF#16 = (0x80#8, 0x01#8) ∧ txChecksum 0x8000#16 = (0x80#8, 0x00#8)
      ∧ txChecksum 0x8001#16 = (0x7F#8, 0xFF#8) ∧ rxChecksum 0x80#8 0x01#8 = 0x7FFF#16
      ∧ rxChecksum 0x80#8 0x00#8 = 0x8000#16 ∧ rxChecksum 0x7F#8 0xFF#8 = 0x8001#16 := by decide

/-! ## DECODE -/

/-- V1. -/
theorem test_decode_example :
    after (exec .decode (loaded exampleFrame))
      (fun t => failed 0#3 0x00#8 t && t.fValid && t.fLength == 0x06#8 && t.fOpKind == 2#2 && t.fOpByte == 0xF3#8
        && t.fSource == 0#1 && t.fStatus == 0x00#8 && t.fDoff == 4 && t.fDlen == 1 && t.csum == 0x013A#16 && t.cValid)
      = true := by decide

/-- V32, V34, V35, V44, V47: which failure is reported. -/
theorem test_decode_failures :
    after (exec .decode (loaded [0x01#8, 0x00#8, 0x00#8])) (fun t => failed 1#3 0x00#8 t && !t.cValid) = true
      ∧ after (exec .decode (loaded [0x02#8, 0xAA#8, 0xFF#8, 0x55#8]))
          (fun t => failed 2#3 0x00#8 t && t.csum == 0x00AC#16 && t.cValid) = true
      ∧ after (exec .decode (loaded [0x03#8, 0x01#8, 0x02#8, 0xFF#8, 0xFA#8])) (failed 1#3 0x00#8) = true
      ∧ after (exec .decode (loaded [0x04#8, 0xD0#8, 0x01#8, 0x00#8, 0xFF#8, 0x2B#8]))
          (fun t => failed 4#3 0x01#8 t && !t.fValid && t.csum == 0x00D5#16 && t.cValid) = true
      ∧ after (exec .decode (loaded [0x04#8, 0xD0#8, 0x01#8, 0x00#8, 0xFF#8, 0x2C#8])) (failed 2#3 0x00#8) = true := by
  decide

/-! ## WRAP -/

/-- V54. -/
theorem test_wrap_ack :
    after (exec .wrap (loaded [0xD0#8, 0x04#8, 0x00#8]))
      (fun t => t.obuf.readList 0 6 == some ackFrame && t.olen == 6 && t.oValid && t.csum == 0x00D8#16
        && failed 0#3 0x00#8 t) = true := by decide

/-- V62: 254 fields. -/
theorem test_wrap_too_long :
    after (exec .wrap { State.reset with ilen := 254, obuf := [(0, 0x55#8)] })
      (fun t => failed 5#3 0x00#8 t && !t.oValid && !t.cValid && t.obuf == [(0, 0x55#8)]) = true := by decide

/-! ## The table commands -/

/-- V5, V21. -/
theorem test_opdec :
    after (exec .opdec (withArg 0xD1#8 0#2)) (fun t => t.resk == 1#2 && t.res == 0xD1#8 && t.rValid) = true
      ∧ after (exec .opdec (withArg 0xD2#8 0#2)) (fun t => t.resk == 3#2 && t.res == 0xD2#8) = true := by decide

/-- V21e, V21g. -/
theorem test_openc :
    after (exec .openc (withArg 0xC6#8 2#2)) (fun t => t.res == 0xF3#8) = true
      ∧ after (exec .openc (withArg 0xD0#8 3#2)) (fun t => t.res == 0xD0#8 && t.resk == 3#2) = true := by decide

/-- V6, V22a. -/
theorem test_srcdec :
    after (exec .srcdec (withArg 0x04#8 0#2)) (fun t => t.resk == 1#2 && t.res == 0x04#8 && t.rValid) = true
      ∧ after (exec .srcdec (withArg 0x05#8 0#2)) (fun t => failed 4#3 0x05#8 t && !t.rValid) = true := by decide

/-- V6, V22b. -/
theorem test_srcenc :
    after (exec .srcenc (withArg 0xFF#8 1#2)) (fun t => t.res == 0x04#8 && t.resk == 1#2) = true
      ∧ after (exec .srcenc (withArg 0x00#8 2#2)) (fun t => failed 7#3 0x00#8 t && !t.rValid) = true := by decide

/-- V23. -/
theorem test_stdec :
    after (exec .stdec (withArg 0xFF#8 0#2)) (fun t => t.res == 0x0B#8 && failed 0#3 0x00#8 t) = true
      ∧ after (exec .stdec (withArg 0xF4#8 0#2)) (fun t => t.res == 0x00#8 && t.rValid) = true := by decide

/-- V3, V24: what no admissible content type set holds. -/
theorem test_ctdec :
    after (exec .ctdec (withArg 0x33#8 0#2)) (fun t => failed 3#3 0x33#8 t && !t.rValid) = true
      ∧ after (exec .ctdec (withArg 0xE2#8 0#2)) (failed 3#3 0xE2#8) = true := by decide

/-! ## The frame rows -/

/-- V40, V41: ACK, SRC_HOST, NACK, SRC_SCANNER and ST_RETRANSMIT. -/
theorem test_rows_ack_nack :
    after (exec (.ack 0x04#8 0x04#8 0x00#8 [0xFF#8, 0x28#8]) State.reset)
        (fun t => t.fOpKind == 0#2 && t.fOpByte == 0xD0#8 && t.csum == 0x00D8#16) = true
      ∧ after (exec (.srcHost 0x04#8 0xD0#8 0x00#8 [0xFF#8, 0x28#8]) State.reset) (fun t => t.fSource == 1#1) = true
      ∧ after (exec (.nack 0x04#8 0x00#8 0x01#8 [0xFF#8, 0x2A#8]) State.reset) (fun t => t.fOpKind == 1#2) = true
      ∧ after (exec (.srcScanner 0x04#8 0xD1#8 0x01#8 [0xFF#8, 0x2A#8]) State.reset)
        (fun t => t.fSource == 0#1 && t.fValid) = true
      ∧ after (exec (.stRetransmit 0x04#8 0xD1#8 0x00#8 0x01#8 [0xFF#8, 0x2A#8]) State.reset)
        (fun t => t.fStatus == 0x01#8) = true := by decide

/-- V1, V43, V63: DECODE_DATA, OTHER, ST_CHANGETYPE and ST_CONTINUATION. -/
theorem test_rows_data_other :
    after (exec (.decodeData 0x06#8 0x00#8 0x00#8 [0x41#8, 0xFE#8, 0xC6#8]) State.reset)
        (fun t => t.fOpKind == 2#2 && t.fDlen == 1) = true
      ∧ after (exec (.other 0x05#8 0xC6#8 0x04#8 0x08#8 [0x01#8, 0xFF#8, 0x28#8]) State.reset)
        (fun t => t.fOpKind == 3#2 && t.fOpByte == 0xC6#8) = true
      ∧ after (exec (.stChangeType 0x05#8 0xC6#8 0x04#8 0x08#8 [0x01#8, 0xFF#8, 0x28#8]) State.reset)
        (fun t => t.fStatus == 0x08#8) = true
      ∧ after (exec (.stContinuation 0x07#8 0xF3#8 0x00#8 0x02#8 [0x03#8, 0x41#8, 0x42#8, 0xFE#8, 0x7E#8]) State.reset)
        (fun t => t.fStatus == 0x02#8 && t.fDlen == 3) = true := by decide

/-! ## The host and the machine -/

/-- V70: no valid bit changes. -/
theorem test_bad_command :
    after (step { State.reset with cmd := some 0x0#4, rValid := true, fValid := true })
      (fun t => failed 7#3 0x00#8 t && t.rValid && t.fValid && !t.oValid) = true := by decide

/-- A pending command comes before the host's next step; a write to a read-only register is ignored (10_state R26, R38). -/
theorem test_order_and_read_only :
    after (step { withArg 0xD1#8 0#2 with cmd := some 0x4#4, events := [.write .arg 0xD0] })
        (fun t => t.res == 0xD1#8 && t.events == [.write .arg 0xD0]) = true
      ∧ after (step { State.reset with events := [.write .res 0xFF] }) (fun t => t.res == 0x00#8) = true := by decide

/-- 30_encoding R91, 43_encoder R175: the acknowledgment's host steps. -/
theorem test_ack_events :
    ackEvents = [.write (.ibuf 0) 0xD0, .write (.ibuf 1) 0x04, .write (.ibuf 2) 0x00, .write .ilen 3, .write .cmd 0x3] := by
  decide

/-- 30_encoding R91: FRAME of P3 of 95_test_vectors, with its byte writes after both table commands. -/
theorem test_frame_events :
    frameEvents 2#2 0x00#8 0#2 0x02#8 [0x03#8, 0x41#8, 0x42#8] =
      [.write .argk 2, .write .arg 0, .write .cmd 0x5, .keep .x .res, .write .argk 0, .write .cmd 0x7, .keep .y .res,
        .put (.ibuf 0) .x, .put (.ibuf 1) .y, .write (.ibuf 2) 0x02, .write (.ibuf 3) 0x03, .write (.ibuf 4) 0x41,
        .write (.ibuf 5) 0x42, .write .ilen 6, .write .cmd 0x3] := by decide

/-- `x <- RES` keeps what the host reads; `IBUF <- [.., y, ..]` writes what the variable holds. -/
theorem test_keep_and_put :
    after (step { State.reset with res := 0xF3#8, rValid := true, events := [.keep .x .res] })
        (fun t => t.hostX == 0xF3 && t.hostY == 0 && t.res == 0xF3#8) = true
      ∧ after (step { State.reset with hostX := 0x01, hostY := 0x04, events := [.put (.ibuf 1) .y] })
        (fun t => t.ibuf == [(1, 0x04#8)]) = true := by decide

/-- P1 of 95_test_vectors, its last step: the bytes sent. -/
theorem test_send :
    after (step { State.reset with obuf := Mem.writeList [] 0 ackFrame, olen := 6, oValid := true, events := [.send] })
      (fun t => t.sent == [ackFrame]) = true := by decide

/-! ## Witnesses: encoding -/

theorem witness_DecodeOfEncode :
    (Instr.ack 0x04#8 0x04#8 0x00#8 [0xFF#8, 0x28#8]).wellFormed = true
      ∧ (Instr.stChangeType 0x05#8 0xC6#8 0x04#8 0x08#8 [0x01#8, 0xFF#8, 0x28#8]).wellFormed = true := by decide

theorem ackFrame_fits : ackFrame.length ≤ Config.maxMsg := Nat.le_trans (by decide) Config.maxMsg_ge

theorem witness_EncodeOfDecode :
    decodeBytes (.frame .opcode) ackFrame = .ok (.ack 0x04#8 0x04#8 0x00#8 [0xFF#8, 0x28#8])
      ∧ ackFrame.length ≤ Config.maxMsg :=
  ⟨by decide, ackFrame_fits⟩

/-! ## Witnesses: what one step runs -/

theorem witness_StepRunsPendingCommand :
    ({ State.reset with cmd := some 0x9#4 } : State).cmd = some 0x9#4 ∧ decodeCommand 0x9#4 = .ok .ctdec := by decide

theorem witness_StepRunsInboundMessage :
    let s : State := { State.reset with events := [.message .source ackFrame] }
    s.cmd = none ∧ s.events = .message .source ackFrame :: []
      ∧ decodeFrame .source ackFrame = .ok (.srcHost 0x04#8 0xD0#8 0x00#8 [0xFF#8, 0x28#8]) := by decide

theorem witness_UnassignedCodeIsBadCommand :
    ({ State.reset with cmd := some 0x0#4 } : State).cmd = some 0x0#4
      ∧ ({ State.reset with cmd := some 0xA#4 } : State).cmd = some 0xA#4 ∧ 0xA ≤ (0xA#4 : BitVec 4).toNat
      ∧ 0xA ≤ (0xF#4 : BitVec 4).toNat := by decide

theorem witness_FrameRowIsDecodeOfItsMessage :
    formatOf (.ack 0x04#8 0x04#8 0x00#8 [0xFF#8, 0x28#8]) ≠ .command
      ∧ (encode (.ack 0x04#8 0x04#8 0x00#8 [0xFF#8, 0x28#8])).length ≤ Config.maxMsg
      ∧ ¬ (encode (.ack 0x04#8 0x04#8 0x00#8 (List.replicate Config.maxMsg 0x00#8))).length ≤ Config.maxMsg := by
  refine ⟨by decide, ackFrame_fits, ?_⟩
  simp only [encode, List.length_cons, List.length_replicate]
  omega

/-! ## Witnesses: the Checksum Engine -/

/-- The state after reset with a length in `ILEN`. -/
def withLen (n : Nat) : State := { State.reset with ilen := n }

theorem withLen_ilen (n : Nat) : (withLen n).ilen = n := rfl

/-- A length one above `MAXMSG`. -/
def overlong : State := withLen (Config.maxMsg + 1)

theorem overlong_ilen : Config.maxMsg < overlong.ilen := by
  rw [overlong, withLen_ilen]
  omega

/-- A message of `MAXMSG` bytes in IBUF. -/
theorem loaded_full :
    (loaded (List.replicate Config.maxMsg 0x00#8)).ilen = Config.maxMsg
      ∧ (loaded (List.replicate Config.maxMsg 0x00#8)).operandBytes = some (List.replicate Config.maxMsg 0x00#8) := by
  have h := State.loadMessage_operand State.reset (List.replicate Config.maxMsg 0x00#8) (Nat.le_of_eq List.length_replicate)
  rwa [List.length_replicate] at h

theorem witness_CsumCommand :
    ((loaded ackFrame).ilen ≤ Config.maxMsg ∧ (loaded ackFrame).operandBytes = some ackFrame)
      ∧ (loaded (List.replicate Config.maxMsg 0x00#8)).ilen ≤ Config.maxMsg
      ∧ State.reset.ilen = 0 ∧ Config.maxMsg < overlong.ilen :=
  ⟨⟨ackFrame_fits, by decide⟩, Nat.le_of_eq loaded_full.1, rfl, overlong_ilen⟩

theorem witness_ChecksumIgnoresOrder :
    ([0xF3#8, 0x00#8, 0x00#8, 0x41#8] : List Byte).Perm [0x41#8, 0x00#8, 0x00#8, 0xF3#8]
      ∧ (0xFE#8 : Byte).toNat + (0x01#8 : Byte).toNat < 256 ∧ (0x01#8 : Byte).toNat ≤ (0x01#8 : Byte).toNat := by decide

/-- The longest list of a length bound. -/
theorem longest (n : Nat) : (List.replicate n (0xFF#8 : Byte)).length ≤ n := Nat.le_of_eq List.length_replicate

theorem witness_ChecksumRange :
    (List.replicate 256 (0xFF#8 : Byte)).length ≤ 256 ∧ (List.replicate 253 (0xFF#8 : Byte)).length ≤ 253 :=
  ⟨longest 256, longest 253⟩

theorem witness_ChecksumOkIffSumVanishes : 3 ≤ ([0x01#8, 0xFF#8, 0xFF#8] : List Byte).length := by decide

/-! ## Witnesses: the Enumeration Tables -/

theorem witness_OpencCommand : (withArg 0xD0#8 3#2).argk = 3#2 ∧ (withArg 0xD0#8 3#2).arg = 0xD0#8 := by decide

theorem witness_SrcdecCommand :
    (withArg 0x00#8 0#2).arg = 0x00#8 ∧ (withArg 0x04#8 0#2).arg = 0x04#8
      ∧ (withArg 0x01#8 0#2).arg ≠ 0x00#8 ∧ (withArg 0x01#8 0#2).arg ≠ 0x04#8 := by decide

theorem witness_SrcencCommand : (withArg 0x00#8 1#2).argk.toNat < 2 ∧ 2 ≤ (withArg 0x00#8 2#2).argk.toNat := by decide

theorem witness_CtdecCommand : 0xe2 ≤ (0xe2#8 : Byte).toNat ∧ Config.ctSet 0xe2#8 = false := by decide

theorem witness_SourceRoundTrip : sourceOfByte 0x04#8 = some .host := by decide

theorem witness_StatusTruncation : (0x10#8 : Byte) &&& 0xF4#8 ≠ 0#8 := by decide

/-! ## Witnesses: the Frame Decoder -/

/-- One message for each clause: V31, V34, V35 (five bytes), V44, V40 and V41, of lengths 3, 4, 5 and 6. -/
theorem witness_DecodeFailureOrder :
    ([0x01#8, 0xFF#8, 0xFF#8] : List Byte).length < 4
      ∧ checksumOk [0x02#8, 0xAA#8, 0xFF#8, 0x55#8] = false
      ∧ checksumOk [0x02#8, 0xAA#8, 0xFF#8, 0x54#8] = true
      ∧ checksumOk [0x03#8, 0x01#8, 0x02#8, 0xFF#8, 0xFA#8] = true
      ∧ (checksumOk [0x04#8, 0xD0#8, 0x01#8, 0x00#8, 0xFF#8, 0x2B#8] = true
          ∧ byteAt [0x04#8, 0xD0#8, 0x01#8, 0x00#8, 0xFF#8, 0x2B#8] 2 ≠ 0x00#8
          ∧ byteAt [0x04#8, 0xD0#8, 0x01#8, 0x00#8, 0xFF#8, 0x2B#8] 2 ≠ 0x04#8)
      ∧ (6 ≤ ackFrame.length ∧ checksumOk ackFrame = true ∧ byteAt ackFrame 2 = 0x04#8)
      ∧ checksumOk nackFrame = true ∧ byteAt nackFrame 2 = 0x00#8 := by decide

theorem witness_DecodeReturnsTheFields :
    6 ≤ ackFrame.length ∧ checksumOk ackFrame = true ∧ byteAt ackFrame 2 = byteOfSource .host := by decide

theorem witness_ShortMessagesNeverDecode :
    ([0x03#8, 0x01#8, 0x02#8, 0xFF#8, 0xFA#8] : List Byte).length < 6
      ∧ checksumOk [0x03#8, 0x01#8, 0x02#8, 0xFF#8, 0xFA#8] = true
      ∧ ([0x03#8, 0x01#8, 0x02#8, 0xFF#8, 0xFB#8] : List Byte).length < 6
      ∧ checksumOk [0x03#8, 0x01#8, 0x02#8, 0xFF#8, 0xFB#8] = false := by decide

theorem witness_SingleBitFlipIsCaught :
    decodeMessage ackFrame = .ok ⟨0x04#8, .ack, .host, ⟨false, false, false⟩, []⟩ ∧ 5 < ackFrame.length ∧ 7 < 8 := by
  decide

/-- Lengths 3, 4 (V33), 6 (V40, V44 and V47, one for each outcome) and `MAXMSG`, and one above it. -/
theorem witness_DecodeCommand :
    Config.maxMsg < overlong.ilen ∧ (loaded [0x01#8, 0xFF#8, 0xFF#8]).ilen < 4
      ∧ (4 ≤ (loaded [0x02#8, 0xAA#8, 0xFF#8, 0x54#8]).ilen
          ∧ (loaded [0x02#8, 0xAA#8, 0xFF#8, 0x54#8]).operandBytes = some [0x02#8, 0xAA#8, 0xFF#8, 0x54#8]
          ∧ decodeMessage [0x02#8, 0xAA#8, 0xFF#8, 0x54#8] = .error .invalidMessageLength)
      ∧ (4 ≤ (loaded ackFrame).ilen ∧ (loaded ackFrame).ilen ≤ Config.maxMsg
          ∧ (loaded ackFrame).operandBytes = some ackFrame
          ∧ decodeMessage ackFrame = .ok ⟨0x04#8, .ack, .host, ⟨false, false, false⟩, []⟩)
      ∧ decodeMessage [0x04#8, 0xD0#8, 0x01#8, 0x00#8, 0xFF#8, 0x2B#8] = .error (.invalidSource 0x01#8)
      ∧ decodeMessage [0x04#8, 0xD0#8, 0x01#8, 0x00#8, 0xFF#8, 0x2C#8] = .error .invalidChecksum
      ∧ 4 ≤ (loaded (List.replicate Config.maxMsg 0x00#8)).ilen
      ∧ (loaded (List.replicate Config.maxMsg 0x00#8)).ilen ≤ Config.maxMsg
      ∧ (loaded (List.replicate Config.maxMsg 0x00#8)).operandBytes = some (List.replicate Config.maxMsg 0x00#8) :=
  ⟨overlong_ilen, by decide, by decide, ⟨by decide, ackFrame_fits, by decide, by decide⟩, by decide, by decide,
    loaded_full.1.symm ▸ Nat.le_trans (by decide) Config.maxMsg_ge, Nat.le_of_eq loaded_full.1, loaded_full.2⟩

/-! ## Witnesses: the Frame Encoder -/

theorem witness_WrapThenDecode :
    (List.replicate 250 (0xFF#8 : Byte)).length ≤ 250
      ∧ 1 ≤ ([0xD0#8] : List Byte).length ∧ wrapFields [0xD0#8] = some [0x02#8, 0xD0#8, 0xFF#8, 0x2E#8] :=
  ⟨longest 250, by decide⟩

theorem witness_WrappedFrameVerifies : (List.replicate 253 (0xFF#8 : Byte)).length ≤ 253 := longest 253

theorem witness_WrapValidatesNothing :
    (([0xD0#8, 0x00#8] : List Byte).length < 3 ∧ wrapFields [0xD0#8, 0x00#8] = some [0x03#8, 0xD0#8, 0x00#8, 0xFF#8, 0x2D#8])
      ∧ (0x01#8 : Byte) ≠ 0x00#8 ∧ (0x01#8 : Byte) ≠ 0x04#8
      ∧ wrapFields [0xD0#8, 0x01#8, 0x00#8] = some [0x04#8, 0xD0#8, 0x01#8, 0x00#8, 0xFF#8, 0x2B#8] := by decide

theorem witness_RewrapOfDecodedMessage :
    wrapFields [0xD0#8, 0x04#8, 0x00#8] = some ackFrame
      ∧ decodeMessage exampleFrame = .ok ⟨0x06#8, .decodeData, .scanner, ⟨false, false, false⟩, [0x41#8]⟩ := by decide

/-- 253 fields in IBUF. -/
theorem loaded_operandBytes (bytes : List Byte) (h : bytes.length ≤ Config.maxMsg) :
    (loaded bytes).ilen = bytes.length ∧ (loaded bytes).operandBytes = some bytes := by
  have := State.loadMessage_operand State.reset bytes h
  exact this

theorem witness_WrapCommand :
    Config.maxMsg < overlong.ilen
      ∧ (253 < ({ State.reset with ilen := 254 } : State).ilen
          ∧ ({ State.reset with ilen := 254 } : State).ilen ≤ Config.maxMsg)
      ∧ ((loaded (List.replicate 253 0xFF#8)).ilen ≤ 253
          ∧ (loaded (List.replicate 253 0xFF#8)).operandBytes = some (List.replicate 253 0xFF#8)) := by
  have hle : 253 ≤ Config.maxMsg := Nat.le_trans (by decide) Config.maxMsg_ge
  have h := loaded_operandBytes (List.replicate 253 0xFF#8) (Nat.le_trans (longest 253) hle)
  refine ⟨overlong_ilen, ⟨by decide, ?_⟩, ?_, h.2⟩
  · have := Config.maxMsg_ge
    show 254 ≤ Config.maxMsg
    omega
  · rw [h.1]
    exact longest 253

/-! ## Witnesses: the frame rows -/

theorem decodable_of {m : List Byte}
    (h : 6 ≤ m.length ∧ m.length ≤ 256 ∧ checksumOk m = true ∧ (byteAt m 2 = 0x00#8 ∨ byteAt m 2 = 0x04#8)) : Decodable m :=
  ⟨h.1, Nat.le_trans h.2.1 Config.maxMsg_ge, h.2.2⟩

theorem witness_OpcodeRowsComplete :
    Decodable ackFrame ∧ Decodable nackFrame ∧ Decodable exampleFrame ∧ Decodable otherFrame ∧ namedOpcode 0xC6#8 = false :=
  ⟨decodable_of (by decide), decodable_of (by decide), decodable_of (by decide), decodable_of (by decide), by decide⟩

theorem witness_SourceRowsComplete : Decodable nackFrame ∧ Decodable ackFrame :=
  ⟨decodable_of (by decide), decodable_of (by decide)⟩

theorem witness_StatusRowsComplete :
    (Decodable nackFrame ∧ (0x01#8 : Byte).getLsbD 0 = true) ∧ (Decodable continuationFrame ∧ (0x02#8 : Byte).getLsbD 1 = true)
      ∧ Decodable otherFrame ∧ (0x08#8 : Byte).getLsbD 3 = true :=
  ⟨⟨decodable_of (by decide), by decide⟩, ⟨decodable_of (by decide), by decide⟩, decodable_of (by decide), by decide⟩

/-! ## Witnesses: frames and errors -/

theorem next_of {o : Host.Outcome State Fault Refusal} (s : State) (h : after o (fun _ => true) = true) :
    o = .next (nextOf o s) := by
  cases o with
  | next t => rfl
  | fault r => cases h
  | refused r => cases h

/-- The state after the WRAP of V54. -/
def wrapped : State := (loaded [0xD0#8, 0x04#8, 0x00#8]).wrapOperand [0xD0#8, 0x04#8, 0x00#8]

theorem wrap_wrapped : exec .wrap (loaded [0xD0#8, 0x04#8, 0x00#8]) = .next wrapped := rfl

theorem witness_CommandFrame :
    formatOf .wrap = .command ∧ exec .wrap (loaded [0xD0#8, 0x04#8, 0x00#8]) = .next wrapped := ⟨rfl, wrap_wrapped⟩

theorem witness_FrameRowFrame :
    formatOf (.ack 0x04#8 0x04#8 0x00#8 [0xFF#8, 0x28#8]) ≠ .command
      ∧ ∃ t, exec (.ack 0x04#8 0x04#8 0x00#8 [0xFF#8, 0x28#8]) State.reset = .next t :=
  ⟨by decide, _, next_of State.reset (by decide)⟩

theorem witness_WrapStoreFrame :
    (exec .wrap (loaded [0xD0#8, 0x04#8, 0x00#8]) = .next wrapped
        ∧ (loaded [0xD0#8, 0x04#8, 0x00#8]).ilen + 3 ≤ 6)
      ∧ ∃ t, exec .wrap { State.reset with ilen := 254 } = .next t ∧ t.err ≠ 0#3 :=
  ⟨⟨wrap_wrapped, by decide⟩, _, next_of State.reset (by decide), by decide⟩

theorem witness_ErrorEntry :
    Group.c ∈ [Group.o, Group.c] ∧ Group.o ∈ [Group.o, Group.c] ∧ Group.f ∈ [Group.f, Group.c] ∧ Group.r ∈ [Group.r] := by
  decide

/-- A DECODE that fails keeps `CSUM` (V44), one that fails its length test does not (V31); a WRAP that succeeds. -/
theorem witness_ErrorsClearOwnedGroups :
    (∃ t, exec .decode (loaded [0x04#8, 0xD0#8, 0x01#8, 0x00#8, 0xFF#8, 0x2B#8]) = .next t ∧ t.err ≠ 0#3 ∧ t.cValid = true)
      ∧ (∃ t, exec .decode (loaded [0x01#8, 0xFF#8, 0xFF#8]) = .next t ∧ t.err ≠ 0#3 ∧ t.cValid = false)
      ∧ exec .wrap (loaded [0xD0#8, 0x04#8, 0x00#8]) = .next wrapped ∧ wrapped.err = 0#3 :=
  ⟨⟨_, next_of State.reset (by decide), by decide, by decide⟩, ⟨_, next_of State.reset (by decide), by decide, by decide⟩,
    wrap_wrapped, by decide⟩

theorem unwritten (n : Nat) (h : 0 < n) : ¬ (withLen n).OperandsWritten :=
  fun hw => absurd (show State.reset.ibuf.read 0 |>.isSome from hw 0 h) (by decide)

/-- Both sides of each boundary: 4 and 3 bytes for DECODE, 253 and 254 for WRAP, `MAXMSG` and one more for CSUM. -/
theorem witness_UnwrittenOperandFaults :
    (4 ≤ (withLen 4).ilen ∧ ¬ (withLen 4).OperandsWritten) ∧ ¬ 4 ≤ (withLen 3).ilen
      ∧ ((withLen 253).ilen ≤ 253 ∧ ¬ (withLen 253).OperandsWritten) ∧ ¬ (withLen 254).ilen ≤ 253
      ∧ ((withLen Config.maxMsg).ilen ≤ Config.maxMsg ∧ ¬ (withLen Config.maxMsg).OperandsWritten)
      ∧ ¬ overlong.ilen ≤ Config.maxMsg ∧ State.reset.OperandsWritten
      ∧ formatOf .decode = .command ∧ ∃ t, exec .decode (withLen 3) = .next t :=
  ⟨⟨by decide, unwritten 4 (by decide)⟩, by decide, ⟨by decide, unwritten 253 (by decide)⟩, by decide,
    ⟨Nat.le_refl _, unwritten _ (Nat.lt_of_lt_of_le (by decide) Config.maxMsg_ge)⟩, Nat.not_le.2 overlong_ilen,
    fun a h => absurd h (Nat.not_lt_zero a), rfl, _, next_of State.reset (by decide)⟩

/-! ## Witnesses: whole-machine rules -/

/-- Two states that differ in results, valid bits, error registers, operand registers DECODE does not read and an IBUF byte
above `ILEN`; and two that differ in `ARG`, which OPENC does not read for kind 2. -/
theorem witness_ResultsDependOnOperandsOnly :
    State.SameOperands (loaded ackFrame) { loaded ackFrame with
        err := 2#3, rValid := true, res := 0x55#8, size := 0x09#8, ibuf := (loaded ackFrame).ibuf.write 6 0x77#8 } .decode
      ∧ State.SameOperands (withArg 0x01#8 2#2) (withArg 0x02#8 2#2) .openc := by
  refine ⟨⟨rfl, fun a h => ?_⟩, rfl, fun h => ?_⟩
  · have ha : a < 6 := h
    exact Mem.read_write_other _ _ _ _ (by omega)
  · exact absurd h (by decide)

/-- The state after reset with a code pending. -/
def pending (code : BitVec 4) : State := { State.reset with cmd := some code }

theorem pending_cmd (code : BitVec 4) : (pending code).cmd ≠ none := fun h => by cases h

theorem witness_OnlyWrapWritesOutput :
    (∃ t, step (pending 0x4#4) = .next t) ∧ (pending 0x4#4).cmd ≠ some 0x3#4
      ∧ ((pending 0x4#4).cmd = none → ∀ rest, (pending 0x4#4).events ≠ .reset :: rest) :=
  ⟨⟨_, next_of State.reset (by decide)⟩, by decide, fun h => absurd h (pending_cmd _)⟩

theorem witness_OnlyDecodeWritesFrame :
    (∃ t, step (pending 0x4#4) = .next t) ∧ (pending 0x4#4).cmd ≠ some 0x2#4
      ∧ ((pending 0x4#4).cmd = none → ∀ rest, (pending 0x4#4).events ≠ .reset :: rest)
      ∧ ((pending 0x4#4).cmd = none → ∀ field bytes rest, (pending 0x4#4).events ≠ .message field bytes :: rest) :=
  ⟨⟨_, next_of State.reset (by decide)⟩, by decide, fun h => absurd h (pending_cmd _), fun h => absurd h (pending_cmd _)⟩

/-- The two boundaries, WRAP's code and the first unassigned one. -/
theorem witness_OnlyTableCommandsWriteResult :
    let s : State := { loaded [0xD0#8, 0x04#8, 0x00#8] with cmd := some 0x3#4 }
    ((∃ t, step s = .next t) ∧ (∀ code, s.cmd = some code → code.toNat < 4 ∨ 9 < code.toNat)
        ∧ (s.cmd = none → ∀ rest, s.events ≠ .reset :: rest))
      ∧ 9 < (0xA#4 : BitVec 4).toNat :=
  ⟨⟨⟨_, next_of State.reset (by decide)⟩, fun code h => .inl (by cases h; decide), fun h => by cases h⟩, by decide⟩

/-- A table command, and a host write with nothing pending. -/
theorem witness_OnlyCommandsWriteChecksumAndErrors :
    ((∃ t, step (pending 0x4#4) = .next t)
        ∧ ((pending 0x4#4).cmd = none → ∀ rest, (pending 0x4#4).events ≠ .reset :: rest)
        ∧ ((pending 0x4#4).cmd = none → ∀ field bytes rest, (pending 0x4#4).events ≠ .message field bytes :: rest)
        ∧ ∀ code, (pending 0x4#4).cmd = some code → code ≠ 0x1#4 ∧ code ≠ 0x2#4 ∧ code ≠ 0x3#4)
      ∧ let s : State := { State.reset with events := [.write .arg 0xD0] }
        (∃ t, step s = .next t) ∧ s.cmd = none ∧ (∀ rest, s.events ≠ .reset :: rest)
          ∧ ∀ field bytes rest, s.events ≠ .message field bytes :: rest :=
  ⟨⟨⟨_, next_of State.reset (by decide)⟩, fun h => absurd h (pending_cmd _), fun h => absurd h (pending_cmd _),
      fun code h => by cases h; decide⟩,
    ⟨_, next_of State.reset (by decide)⟩, rfl, by simp, by simp⟩

theorem witness_EngineKeepsInput :
    let s : State := { loaded ackFrame with cmd := some 0x2#4 }
    (∃ t, step s = .next t) ∧ s.cmd ≠ none :=
  ⟨⟨_, next_of State.reset (by decide)⟩, by decide⟩

theorem le_lenw {n : Nat} (h : n ≤ 256) : n < 2 ^ Config.lenw :=
  Nat.lt_of_le_of_lt (Nat.le_trans h Config.maxMsg_ge) Config.maxMsg_lt

/-- The invariant is met by a state whose output is valid. -/
theorem wrapped_inv : wrapped.Inv where
  ibuf_wf := by decide
  obuf_wf := by decide
  ibuf_inside := fun cell h => Nat.lt_of_lt_of_le
    ((by decide : ∀ cell ∈ wrapped.ibuf, cell.1 < 256) cell h) Config.maxMsg_ge
  obuf_inside := fun cell h => Nat.lt_of_lt_of_le
    ((by decide : ∀ cell ∈ wrapped.obuf, cell.1 < 256) cell h) Config.maxMsg_ge
  lengths := ⟨le_lenw (n := wrapped.ilen) (by decide), le_lenw (n := wrapped.fDoff) (by decide),
    le_lenw (n := wrapped.fDlen) (by decide), le_lenw (n := wrapped.olen) (by decide)⟩
  status_bits := by decide
  err_code := by decide
  err_byte := by decide
  frame_group := fun h => absurd h (by decide)
  output_group := fun _ => ⟨[0xD0#8, 0x04#8, 0x00#8], ackFrame, by decide, by decide⟩

theorem witness_StepKeepsInvariant : wrapped.Inv ∧ step wrapped = .next wrapped := ⟨wrapped_inv, rfl⟩

theorem witness_ValidOutputVerifies : wrapped.Inv ∧ wrapped.oValid = true := ⟨wrapped_inv, by decide⟩

/-! ## Witnesses: reset and the host -/

theorem witness_ResetState :
    let s : State := { wrapped with events := [.reset] }
    s.cmd = none ∧ s.events = .reset :: [] := by decide

theorem witness_HostWrites : 256 < 2 ^ Config.lenw ∧ Config.maxMsg < 2 ^ Config.lenw ∧ 255 < Config.maxMsg :=
  ⟨le_lenw (Nat.le_refl 256), Config.maxMsg_lt, Config.maxMsg_ge⟩

/-- A register that holds a value and one that holds none; a state for each condition under which a place holds one. -/
theorem witness_HostReadsHaveNoSideEffect :
    (wrapped.cmd = none ∧ step { wrapped with events := [.read .olen] } = .next { wrapped with rdata := 6 })
      ∧ (∃ t, step { State.reset with events := [.read .fDlen] } = .next t)
      ∧ (wrapped.cValid = true ∧ wrapped.oValid = true ∧ 5 < wrapped.olen ∧ wrapped.obuf.read 5 = some 0x28#8
          ∧ wrapped.ibuf.read 2 = some 0x00#8)
      ∧ (nextOf (exec .decode (loaded exampleFrame)) State.reset).fValid = true
      ∧ (nextOf (exec .opdec State.reset) State.reset).rValid = true ∧ 5 < Config.maxMsg :=
  ⟨⟨rfl, rfl⟩, ⟨_, next_of State.reset (by decide)⟩, by decide, by decide, by decide,
    Nat.lt_of_lt_of_le (by decide) Config.maxMsg_ge⟩

/-- A copy of a register that holds a value; a valid output; 250 data bytes. -/
theorem witness_HostProgramSteps :
    (wrapped.cmd = none ∧ wrapped.hostRead .err = some 0)
      ∧ (wrapped.oValid = true ∧ wrapped.obuf.readList 0 wrapped.olen = some ackFrame ∧ ackFrame.length ≤ Config.maxMsg)
      ∧ (List.replicate 250 (0xFF#8 : Byte)).length ≤ 250 :=
  ⟨by decide, ⟨by decide, by decide, ackFrame_fits⟩, longest 250⟩

theorem witness_SessionAcknowledges :
    let inbound : State := { State.reset with events := [.inbound ackFrame] }
    let good : State := { State.reset with events := [.react] }
    let bad : State := { State.reset with err := 2#3, events := [.react] }
    let data : State := { State.reset with fValid := true, fOpKind := 2#2, fDlen := 1, events := [.handleData] }
    (inbound.cmd = none ∧ inbound.events = .inbound ackFrame :: [] ∧ ackFrame.length ≤ Config.maxMsg)
      ∧ (good.cmd = none ∧ good.events = .react :: [] ∧ good.err = 0#3)
      ∧ (bad.cmd = none ∧ bad.events = .react :: [] ∧ bad.err ≠ 0#3)
      ∧ (data.events = .handleData :: [] ∧ data.fValid = true ∧ data.fOpKind = 2#2 ∧ data.fDlen ≠ 0)
      ∧ ({ data with fDlen := 0 } : State).fDlen = 0 ∧ ({ data with fOpKind := 0#2 } : State).fOpKind ≠ 2#2
      ∧ ({ State.reset with events := [.timeout] } : State).events = .timeout :: [] :=
  ⟨⟨rfl, rfl, ackFrame_fits⟩, by decide⟩

end Sys2Proof.Tests
end

/-!
PROOFS. The statements of 10_state: what each command and each step of the machine keeps, the invariant, what a result
depends on, and what the host's reads, writes and resets do. Each operation of the machine is treated once, and the
statements about commands and steps go through the forms a next state can take (`CommandResult`, `HostResult`).
-/

namespace Sys2Proof.Machine

/-! ## What the shared operations keep -/

theorem Group.kept_trans {s t u : State} {g : Group} (h : g.Kept s t) (h' : g.Kept t u) : g.Kept s u := by
  cases g <;> simp only [Group.Kept] at h h' ⊢ <;> simp [h, h']

theorem State.KeepsAllBut.trans {s t u : State} {gs : List Group} (h : s.KeepsAllBut gs t) (h' : t.KeepsAllBut gs u) :
    s.KeepsAllBut gs u := by
  obtain ⟨host, input, groups⟩ := h
  obtain ⟨host', input', groups'⟩ := h'
  refine ⟨?_, ?_, fun g hg => Group.kept_trans (groups g hg) (groups' g hg)⟩
  · simp only [State.KeepsHostSide] at host host' ⊢
    simp [host, host']
  · simp only [State.KeepsInput] at input input' ⊢
    simp [input, input']

/-- Fewer groups may change than are listed. -/
theorem State.KeepsAllBut.mono {s t : State} {gs gs' : List Group} (h : s.KeepsAllBut gs t) (hsub : gs ⊆ gs') :
    s.KeepsAllBut gs' t := by
  obtain ⟨host, input, groups⟩ := h
  exact ⟨host, input, fun g hg => groups g fun hg' => hg (hsub hg')⟩

theorem State.raise_keepsAllBut (s : State) (e : ErrKind) (gs : List Group) : s.KeepsAllBut gs (s.raise e gs) := by
  refine ⟨by simp [State.KeepsHostSide], by simp [State.KeepsInput], fun g hg => ?_⟩
  cases g with
  | c => simp [Group.Kept, State.raise_csum, hg]
  | f => simp [Group.Kept, State.raise_fLength, State.raise_fOpKind, State.raise_fOpByte, State.raise_fSource,
      State.raise_fStatus, State.raise_fDoff, State.raise_fDlen, hg]
  | o => simp [Group.Kept, State.raise_olen, hg]
  | r => simp [Group.Kept, State.raise_res, State.raise_resk, hg]

theorem State.succeed_keepsAllBut (s : State) (gs : List Group) : s.KeepsAllBut gs s.succeed := by
  refine ⟨by simp [State.KeepsHostSide], by simp [State.KeepsInput], fun g _ => ?_⟩
  cases g <;> simp [Group.Kept]

theorem State.setCsum_keepsAllBut (s : State) (c : U16) : s.KeepsAllBut [.c] (s.setCsum c) := by
  refine ⟨by simp [State.KeepsHostSide], by simp [State.KeepsInput], fun g hg => ?_⟩
  cases g <;> simp [Group.Kept] at hg ⊢

theorem State.setResult_keepsAllBut (s : State) (b : Byte) (k : BitVec 2) : s.KeepsAllBut [.r] (s.setResult b k) := by
  refine ⟨by simp [State.KeepsHostSide], by simp [State.KeepsInput], fun g hg => ?_⟩
  cases g <;> simp [Group.Kept] at hg ⊢

theorem State.setFrame_keepsAllBut (s : State) (l o : Byte) (src : BitVec 1) (st : Byte) (n : Nat) :
    s.KeepsAllBut [.f] (s.setFrame l o src st n) := by
  refine ⟨by simp [State.KeepsHostSide], by simp [State.KeepsInput], fun g hg => ?_⟩
  cases g <;> simp [Group.Kept] at hg ⊢

theorem State.setOutput_keepsAllBut (s : State) (fields : List Byte) (check : U16) :
    s.KeepsAllBut [.o] (s.setOutput fields check) := by
  refine ⟨by simp [State.KeepsHostSide], by simp [State.KeepsInput], fun g hg => ?_⟩
  cases g <;> simp [Group.Kept] at hg ⊢

/-! ## What DECODE and WRAP do with their operand -/

/-- Which error or which frame DECODE ends in depends on the message alone (42_decoder R156), whatever the state. -/
theorem State.decodeOperand_uniform (m : List Byte) :
    (∃ e, ∀ s : State, s.decodeOperand m =
      (s.setCsum (calcChecksum (byteAt m 0) (payloadOf m))).raise e [.f]) ∨
    (6 ≤ m.length ∧ ∃ source, ∀ s : State, s.decodeOperand m =
      (s.setCsum (calcChecksum (byteAt m 0) (payloadOf m))).setFrame (byteAt m 0) (byteAt m 1) source (byteAt m 3)
        (m.length - 6)) := by
  by_cases hc : calcChecksum (byteAt m 0) (payloadOf m) = rxChecksum (checksumHi m) (checksumLo m)
  · by_cases h6 : m.length < 6
    · exact .inl ⟨.invalidMessageLength, fun s => by simp [State.decodeOperand, hc, h6]⟩
    · cases hs : sourceOfByte (byteAt m 2) with
      | none => exact .inl ⟨.invalidSource (byteAt m 2), fun s => by simp [State.decodeOperand, hc, h6, hs]⟩
      | some source => exact .inr ⟨by omega, sourceBit source, fun s => by simp [State.decodeOperand, hc, h6, hs]⟩
  · exact .inl ⟨.invalidChecksum, fun s => by simp [State.decodeOperand, hc]⟩

theorem State.decodeOperand_keepsAllBut (s : State) (m : List Byte) : s.KeepsAllBut [.f, .c] (s.decodeOperand m) := by
  have hsum := (s.setCsum_keepsAllBut (calcChecksum (byteAt m 0) (payloadOf m))).mono (gs' := [.f, .c]) (by simp)
  rcases State.decodeOperand_uniform m with ⟨e, he⟩ | ⟨-, source, hf⟩
  · rw [he]
    exact hsum.trans ((State.raise_keepsAllBut _ _ _).mono (by simp))
  · rw [hf]
    exact hsum.trans ((State.setFrame_keepsAllBut _ _ _ _ _ _).mono (by simp))

theorem State.wrapOperand_keepsAllBut (s : State) (fields : List Byte) :
    s.KeepsAllBut [.o, .c] (s.wrapOperand fields) :=
  ((s.setCsum_keepsAllBut _).mono (by simp)).trans ((State.setOutput_keepsAllBut _ _ _).mono (by simp))

theorem Mem.writeList_append (m : Mem) (a : Nat) (l l' : List Byte) :
    m.writeList a (l ++ l') = (m.writeList a l).writeList (a + l.length) l' := by
  induction l generalizing m a with
  | nil => rfl
  | cons b l ih =>
    simp only [List.cons_append, Mem.writeList, ih, List.length_cons]
    congr 1
    omega

/-- Negating the signed reading and reading the result unsigned is `neg16` (40_checksum R104). -/
theorem asU16_neg_asI16 (c : U16) : asU16 (-asI16 c) = neg16 c := by
  apply BitVec.eq_of_toNat_eq
  have := c.isLt
  simp only [asU16, asI16, neg16, BitVec.toNat_ofInt, BitVec.toNat_ofNat]
  split <;> omega

/-- WRAP leaves in OBUF, from offset 0 on, the frame `wrap` gives for its fields (43_encoder R170, R174). -/
theorem State.wrapOperand_output (fields : List Byte) (hk : fields.length ≤ 253) :
    ∃ frame, wrapFields fields = some frame ∧ frame.length = fields.length + 3 ∧
      ∀ s : State, (s.wrapOperand fields).obuf = s.obuf.writeList 0 frame := by
  have hw : wrapFields fields = some (BitVec.ofNat 8 (fields.length + 1) :: fields
      ++ [hi8 (neg16 (calcChecksum (BitVec.ofNat 8 (fields.length + 1)) fields)),
        lo8 (neg16 (calcChecksum (BitVec.ofNat 8 (fields.length + 1)) fields))]) := by
    rw [wrapFields, if_neg (by omega)]
    simp only [txChecksum, asU16_neg_asI16]
  refine ⟨_, hw, by simp, fun s => ?_⟩
  rw [Mem.writeList_append]
  simp [State.wrapOperand, Mem.writeList]

/-! ## What a command can do -/

/-- The forms the next state of a command takes. -/
inductive CommandResult (s : State) : Instr → State → Prop
  /-- Any command: an error that takes groups the command owns (60_exceptions R197). -/
  | failed {i : Instr} (e : ErrKind) {gs : List Group} (owned : gs ⊆ owns i) : CommandResult s i (s.raise e gs)
  /-- A table command. -/
  | table {i : Instr} (b : Byte) (k : BitVec 2) (owned : owns i = [.r]) : CommandResult s i (s.setResult b k)
  /-- CSUM. -/
  | summed (c : U16) : CommandResult s .csum (s.setCsum c).succeed
  /-- DECODE of a message that has its checksum field. -/
  | decoded (m : List Byte) (fits : m.length ≤ Config.maxMsg) : CommandResult s .decode (s.decodeOperand m)
  /-- WRAP within its domain (43_encoder R173). -/
  | wrapped (fields : List Byte) (domain : fields.length ≤ 253) : CommandResult s .wrap (s.wrapOperand fields)

theorem State.length_of_operandBytes {s : State} {m : List Byte} (h : s.operandBytes = some m) : m.length = s.ilen :=
  Mem.readList_length h

theorem State.runDecode_result {s t : State} (h : s.runDecode = .next t) : CommandResult s .decode t := by
  rcases State.runDecode_next h with ⟨-, rfl⟩ | ⟨-, rfl⟩ | ⟨-, hl, m, hm, rfl⟩
  · exact .failed _ (List.Subset.refl _)
  · exact .failed _ (List.Subset.refl _)
  · exact .decoded m (State.length_of_operandBytes hm ▸ hl)

theorem exec_command_result {i : Instr} {s t : State} (hi : formatOf i = .command) (h : exec i s = .next t) :
    CommandResult s i t := by
  cases i with
  | csum =>
    rcases execCsum_next h with ⟨-, rfl⟩ | ⟨-, payload, -, rfl⟩
    · exact .failed _ (List.Subset.refl _)
    · exact .summed _
  | decode => exact State.runDecode_result h
  | wrap =>
    rcases execWrap_next h with ⟨-, rfl⟩ | ⟨-, -, rfl⟩ | ⟨hk, fields, hf, rfl⟩
    · exact .failed _ (List.Subset.refl _)
    · exact .failed _ (List.Subset.refl _)
    · exact .wrapped fields (State.length_of_operandBytes hf ▸ hk)
  | opdec => cases h; exact .table _ _ rfl
  | openc => cases h; exact .table _ _ rfl
  | srcdec =>
    rcases execSrcdec_next h with ⟨source, -, rfl⟩ | ⟨-, rfl⟩
    · exact .table _ _ rfl
    · exact .failed _ (List.Subset.refl _)
  | srcenc =>
    rcases execSrcenc_next h with ⟨source, -, rfl⟩ | ⟨-, rfl⟩
    · exact .table _ _ rfl
    · exact .failed _ (List.Subset.refl _)
  | stdec => cases h; exact .table _ _ rfl
  | ctdec =>
    rcases execCtdec_next h with ⟨-, rfl⟩ | ⟨-, rfl⟩
    · exact .table _ _ rfl
    · exact .failed _ (List.Subset.refl _)
  | _ => cases hi

/-- A command keeps everything but `ERR`, `ERRB` and the groups it owns (60_exceptions R197). -/
theorem CommandResult.keepsAllBut {i : Instr} {s t : State} (h : CommandResult s i t) : s.KeepsAllBut (owns i) t := by
  cases h with
  | failed e owned => exact (s.raise_keepsAllBut e _).mono owned
  | table b k owned => rw [owned]; exact s.setResult_keepsAllBut b k
  | summed c => exact (s.setCsum_keepsAllBut c).trans (State.succeed_keepsAllBut _ _)
  | decoded m => exact s.decodeOperand_keepsAllBut m
  | wrapped fields => exact s.wrapOperand_keepsAllBut fields

/-- Settles O41: by the forms a command's next state takes, each of which keeps what the command does not own. -/
theorem commandFrame : Obligations.CommandFrame := fun _ _ _ hi h => (exec_command_result hi h).keepsAllBut

/-! ## What a step keeps of the results -/

/-- `ERR`, `ERRB` and every result group stay as they are. -/
def State.KeepsResults (s t : State) : Prop := t.err = s.err ∧ t.errb = s.errb ∧ ∀ g, Group.Kept s t g

/-- Whatever happens to the operands, to IBUF, to `CMD` and to the model's record of the host, the results are kept. -/
theorem State.keepsResults_of_hostSide (s : State) {ilen : Nat} {size arg : Byte} {argk : BitVec 2}
    {cmd : Option (BitVec 4)} {ibuf : Mem} {events : List Event} {rdata hostX hostY : Nat} {sent : List (List Byte)} :
    s.KeepsResults { s with
      ilen := ilen, size := size, arg := arg, argk := argk, cmd := cmd, ibuf := ibuf, events := events, rdata := rdata,
      hostX := hostX, hostY := hostY, sent := sent } :=
  ⟨rfl, rfl, fun g => by cases g <;> simp [Group.Kept]⟩

theorem State.hostWrite_keepsResults {s t : State} {port : Port} {v : Nat} (h : s.hostWrite port v = .next t) :
    s.KeepsResults t := by
  rcases State.hostWrite_next h with ⟨-, rfl⟩ | ⟨-, rfl⟩ | ⟨-, rfl⟩ | ⟨-, rfl⟩ | ⟨-, rfl⟩ | ⟨a, -, -, rfl⟩ | rfl <;>
    exact State.keepsResults_of_hostSide _

/-- The forms the next state of a host step takes. -/
inductive HostResult (s : State) : Event → State → Prop
  /-- A step that changes no more than the model's record of the host. -/
  | recorded {e : Event} (events : List Event) (rdata hostX hostY : Nat) (sent : List (List Byte)) :
    HostResult s e { s with events := events, rdata := rdata, hostX := hostX, hostY := hostY, sent := sent }
  /-- A write, a copy, or a write of one of the host's variables. -/
  | wrote {e : Event} {t : State} (port : Port) (v : Nat) (write : s.hostWrite port v = .next t) : HostResult s e t
  /-- The loopback. -/
  | loaded {e : Event} (m : List Byte) (fits : m.length ≤ Config.maxMsg) : HostResult s e (s.loadMessage m)
  /-- An inbound message as an instruction. -/
  | received {t : State} (field : Field) (m : List Byte) (receive : s.receive m = .next t) :
    HostResult s (.message field m) t
  /-- The reset event. -/
  | reset : HostResult s .reset s.resetEvent

theorem State.hostStep_result {s t : State} {e : Event} (h : s.hostStep e = .next t) : HostResult s e t := by
  cases e with
  | write port v => exact .wrote port v h
  | read port =>
    simp only [State.hostStep] at h
    split at h
    · cases h; exact .recorded _ _ _ _ _
    · cases h
  | copy dst src =>
    simp only [State.hostStep] at h
    split at h
    · exact .wrote _ _ h
    · cases h
  | keep var src =>
    simp only [State.hostStep] at h
    split at h
    · cases h
      rw [State.setHostVar_eq]
      exact .recorded _ _ _ _ _
    · cases h
  | put dst var => exact .wrote _ _ h
  | loopback =>
    simp only [State.hostStep] at h
    split at h
    · cases h
    · next hl =>
      cases h
      exact .loaded _ ((Config.tooLong_false_iff _).1 (by simpa using hl))
  | send => cases h; exact .recorded _ _ _ _ _
  | message field m => exact .received field m (s.receiveRow_eq field m ▸ h)
  | inbound m => cases h; exact .recorded _ _ _ _ _
  | react => cases h; exact .recorded _ _ _ _ _
  | handleData =>
    simp only [State.hostStep] at h
    split at h
    · split at h
      · cases h
      · cases h; exact .recorded _ _ _ _ _
    · cases h; exact .recorded _ _ _ _ _
  | timeout => cases h; exact .recorded _ _ _ _ _
  | reset => cases h; exact .reset

/-- A host step touches no result, an inbound message and a reset aside. -/
theorem HostResult.keepsResults {s t : State} {e : Event} (h : HostResult s e t) (hr : e ≠ .reset)
    (hm : ∀ field m, e ≠ .message field m) : s.KeepsResults t := by
  cases h with
  | recorded => exact s.keepsResults_of_hostSide
  | wrote port v write => exact State.hostWrite_keepsResults write
  | loaded m => exact s.keepsResults_of_hostSide
  | received field m => exact absurd rfl (hm field m)
  | reset => exact absurd rfl hr

/-- The arrival of a message is a load and a DECODE, so it keeps what DECODE does not own. -/
theorem State.receive_kept {s t : State} {m : List Byte} {g : Group} (h : s.receive m = .next t)
    (hg : g ∉ [Group.f, .c]) : g.Kept s t := by
  obtain ⟨-, hdecode⟩ := State.receive_next h
  obtain ⟨-, -, hload⟩ : s.KeepsResults (s.loadMessage m) := s.keepsResults_of_hostSide
  obtain ⟨-, -, hkeep⟩ := (State.runDecode_result hdecode).keepsAllBut
  exact Group.kept_trans (hload g) (hkeep g hg)

/-- The groups a step owns that executes a code: those of the command it names, none for an unassigned code
(60_exceptions R197). -/
def codeGroups (code : BitVec 4) : List Group :=
  match decodeCommand code with
  | .ok i => owns i
  | .error _ => []

theorem mem_codeGroups_c (code : BitVec 4) :
    Group.c ∈ codeGroups code ↔ code = 0x1#4 ∨ code = 0x2#4 ∨ code = 0x3#4 := by
  revert code; decide

theorem mem_codeGroups_f (code : BitVec 4) : Group.f ∈ codeGroups code ↔ code = 0x2#4 := by
  revert code; decide

theorem mem_codeGroups_o (code : BitVec 4) : Group.o ∈ codeGroups code ↔ code = 0x3#4 := by
  revert code; decide

theorem mem_codeGroups_r (code : BitVec 4) : Group.r ∈ codeGroups code ↔ 4 ≤ code.toNat ∧ code.toNat ≤ 9 := by
  revert code; decide

/-- Only commands are named by codes. -/
theorem formatOf_of_decodeCommand {code : BitVec 4} {i : Instr} (h : decodeCommand code = .ok i) :
    formatOf i = .command := by
  have all : ∀ code : BitVec 4, ∀ i ∈ (decodeCommand code).toOption, formatOf i = .command := by decide
  exact all code i (by rw [h]; rfl)

theorem State.engineStep_keepsAllBut {s t : State} {code : BitVec 4} (h : s.engineStep code = .next t) :
    s.KeepsAllBut (codeGroups code) t := by
  unfold codeGroups
  rcases State.engineStep_next h with ⟨i, hi, hexec⟩ | ⟨⟨e, he⟩, rfl⟩
  · rw [hi]
    exact (exec_command_result (formatOf_of_decodeCommand hi) hexec).keepsAllBut
  · rw [he]
    exact s.raise_keepsAllBut _ _

/-- A step keeps a group unless the pending code owns it, the next host step is a reset, or it is an inbound message and
the group is one that DECODE owns. -/
theorem step_kept {s t : State} {g : Group} (h : step s = .next t)
    (hcode : ∀ code, s.cmd = some code → g ∉ codeGroups code)
    (hreset : s.cmd = none → ∀ rest, s.events ≠ .reset :: rest)
    (hmessage : g ∈ [Group.f, .c] → s.cmd = none → ∀ field m rest, s.events ≠ .message field m :: rest) :
    g.Kept s t := by
  rcases State.advance_next h with ⟨code, hc, hengine⟩ | ⟨-, -, rfl⟩ | ⟨hc, e, rest, he, hhost⟩
  · obtain ⟨-, -, hcmd⟩ : s.KeepsResults { s with cmd := none } := s.keepsResults_of_hostSide
    obtain ⟨-, -, hkeep⟩ := State.engineStep_keepsAllBut hengine
    exact Group.kept_trans (hcmd g) (hkeep g (hcode code hc))
  · obtain ⟨-, -, hsame⟩ := t.keepsResults_of_hostSide
    exact hsame g
  · obtain ⟨-, -, hevents⟩ : s.KeepsResults { s with events := rest } := s.keepsResults_of_hostSide
    refine Group.kept_trans (hevents g) ?_
    have hr : e ≠ .reset := fun h => hreset hc rest (h ▸ he)
    by_cases hm : ∃ field m, e = .message field m
    · obtain ⟨field, m, rfl⟩ := hm
      refine State.receive_kept (m := m) ?_ fun hg => hmessage hg hc field m rest he
      rw [← State.receiveRow_eq _ field]
      exact hhost
    · obtain ⟨-, -, hkeep⟩ := (State.hostStep_result hhost).keepsResults hr (fun field m h => hm ⟨field, m, h⟩)
      exact hkeep g

/-- Settles O48: of the nine command codes WRAP's alone owns group O. -/
theorem onlyWrapWritesOutput : Obligations.OnlyWrapWritesOutput := by
  intro s t h hwrap hreset
  refine step_kept h (fun code hc => ?_) hreset (by simp)
  rw [mem_codeGroups_o]
  exact fun hcode => hwrap (hcode ▸ hc)

/-- Settles O49: of the nine command codes DECODE's alone owns group F. -/
theorem onlyDecodeWritesFrame : Obligations.OnlyDecodeWritesFrame := by
  intro s t h hdecode hreset hmessage
  refine step_kept h (fun code hc => ?_) hreset (fun _ => hmessage)
  rw [mem_codeGroups_f]
  exact fun hcode => hdecode (hcode ▸ hc)

/-- Settles O50: codes 4 to 9 alone own group R. -/
theorem onlyTableCommandsWriteResult : Obligations.OnlyTableCommandsWriteResult := by
  intro s t h hcodes hreset
  refine step_kept h (fun code hc => ?_) hreset (by simp)
  rw [mem_codeGroups_r]
  have := hcodes code hc
  omega

/-- With nothing pending a step keeps `ERR` and `ERRB`, an inbound message and a reset aside. -/
theorem step_keeps_err {s t : State} (h : step s = .next t) (hc : s.cmd = none)
    (hreset : ∀ rest, s.events ≠ .reset :: rest) (hmessage : ∀ field m rest, s.events ≠ .message field m :: rest) :
    t.err = s.err ∧ t.errb = s.errb := by
  rcases State.advance_next h with ⟨code, hc', -⟩ | ⟨-, -, rfl⟩ | ⟨-, e, rest, he, hhost⟩
  · simp [hc] at hc'
  · exact ⟨rfl, rfl⟩
  · obtain ⟨herr, herrb, -⟩ := (State.hostStep_result hhost).keepsResults (fun h => hreset rest (h ▸ he))
      (fun field m h => hmessage field m rest (h ▸ he))
    exact ⟨herr, herrb⟩

/-- Settles O51: codes 1 to 3 alone own group C, and no host step but a message or a reset writes an error register. -/
theorem onlyCommandsWriteChecksumAndErrors : Obligations.OnlyCommandsWriteChecksumAndErrors := by
  intro s t h hreset hmessage
  refine ⟨fun hcodes => step_kept h (fun code hc => ?_) hreset (fun _ => hmessage),
    fun hc => step_keeps_err h hc (hreset hc) (hmessage hc)⟩
  rw [mem_codeGroups_c]
  have := hcodes code hc
  tauto

/-- Settles O52: the engine executes on the state with nothing pending, and keeps the host's side and IBUF of it. -/
theorem engineKeepsInput : Obligations.EngineKeepsInput := by
  intro s t h hpending
  rcases State.advance_next h with ⟨code, -, hengine⟩ | ⟨hc, -⟩ | ⟨hc, -⟩
  · obtain ⟨⟨hsize, harg, hargk, hcmd, -⟩, hinput, -⟩ := State.engineStep_keepsAllBut hengine
    exact ⟨hinput, hsize, harg, hargk, hcmd⟩
  · exact absurd hc hpending
  · exact absurd hc hpending

/-! ## The invariant, operation by operation -/

/-- Settles O54: nothing holds a value, and every register is 0. -/
theorem resetMeetsInvariant : Obligations.ResetMeetsInvariant where
  ibuf_wf := State.reset_ibuf_wf
  obuf_wf := State.reset_obuf_wf
  ibuf_inside := by simp [State.reset]
  obuf_inside := by simp [State.reset]
  lengths := by simp [State.reset]
  status_bits := by decide
  err_code := by decide
  err_byte := by decide
  frame_group := by simp [State.reset]
  output_group := by simp [State.reset]

/-- The host's side may change freely, if `ILEN` stays within its width and IBUF within its form and size. -/
theorem State.Inv.hostSide {s : State} (h : s.Inv) {ilen : Nat} {size arg : Byte} {argk : BitVec 2}
    {cmd : Option (BitVec 4)} {ibuf : Mem} {events : List Event} {rdata hostX hostY : Nat} {sent : List (List Byte)}
    (hilen : ilen < 2 ^ Config.lenw) (hwf : ibuf.wf = true) (hinside : ∀ cell ∈ ibuf, cell.1 < Config.maxMsg) :
    State.Inv { s with
      ilen := ilen, size := size, arg := arg, argk := argk, cmd := cmd, ibuf := ibuf, events := events, rdata := rdata,
      hostX := hostX, hostY := hostY, sent := sent } :=
  { h with ibuf_wf := hwf, ibuf_inside := hinside, lengths := ⟨hilen, h.lengths.2⟩ }

theorem ErrKind.code_ne_six (e : ErrKind) : e.code ≠ 6#3 := by
  cases e <;> simp [ErrKind.code]

theorem ErrKind.info_eq_zero (e : ErrKind) (h3 : e.code ≠ 3#3) (h4 : e.code ≠ 4#3) : e.info = 0x00#8 := by
  cases e <;> simp [ErrKind.code, ErrKind.info] at h3 h4 ⊢

/-- Masking with 0x0B clears the bits of `F_STATUS` that always read 0. -/
theorem maskStatus_reserved (b : Byte) : maskStatus b &&& 0xF4#8 = 0#8 := by
  rw [maskStatus, statusMask, BitVec.and_assoc]
  simp

theorem freeLen_lt (draw slot : Nat) : freeLen draw slot < 2 ^ Config.lenw := Nat.mod_lt _ (Nat.two_pow_pos _)

/-- A lost group takes values that its registers' widths and reserved bits allow (log entry 18). -/
theorem State.Inv.lose {s : State} (h : s.Inv) (g : Group) : (s.lose g).Inv := by
  obtain ⟨hilen, hdoff, hdlen, holen⟩ := h.lengths
  cases g with
  | c => exact { h with }
  | f => exact { h with
      lengths := ⟨hilen, freeLen_lt _ _, freeLen_lt _ _, holen⟩
      status_bits := maskStatus_reserved _
      frame_group := by simp }
  | o => exact { h with
      lengths := ⟨hilen, hdoff, hdlen, freeLen_lt _ _⟩
      output_group := by simp }
  | r => exact { h with }

theorem State.Inv.raise {s : State} (h : s.Inv) (e : ErrKind) (gs : List Group) : (s.raise e gs).Inv := by
  have herr : State.Inv { s with err := e.code, errb := e.info } :=
    { h with err_code := e.code_ne_six, err_byte := e.info_eq_zero }
  exact List.foldlRecOn gs State.lose herr fun _ hs g _ => State.Inv.lose hs g

theorem State.Inv.succeed {s : State} (h : s.Inv) : s.succeed.Inv :=
  { h with err_code := by simp, err_byte := by simp }

theorem State.Inv.setCsum {s : State} (h : s.Inv) (c : U16) : (s.setCsum c).Inv := { h with }

theorem State.Inv.setResult {s : State} (h : s.Inv) (b : Byte) (k : BitVec 2) : (s.setResult b k).Inv :=
  State.Inv.succeed { h with }

theorem State.Inv.setFrame {s : State} (h : s.Inv) (l o : Byte) (src : BitVec 1) (st : Byte) {n : Nat}
    (hn : n + 6 ≤ Config.maxMsg) : (s.setFrame l o src st n).Inv := by
  obtain ⟨hilen, -, -, holen⟩ := h.lengths
  have := Config.maxMsg_lt
  refine State.Inv.succeed { h with
    lengths := ⟨hilen, ?_, ?_, holen⟩
    status_bits := maskStatus_reserved st
    frame_group := fun _ => ⟨rfl, rfl, ?_⟩ } <;> simp only <;> omega

/-- A frame of at most 253 fields fits OBUF, and reading it back gives the frame. -/
theorem State.Inv.wrapOperand {s : State} (h : s.Inv) {fields : List Byte} (hk : fields.length ≤ 253) :
    (s.wrapOperand fields).Inv := by
  obtain ⟨frame, hframe, hlength, hobuf⟩ := State.wrapOperand_output fields hk
  have holen : (s.wrapOperand fields).olen = frame.length := hlength.symm
  have hmax := Config.maxMsg_ge
  have hlt := Config.maxMsg_lt
  obtain ⟨hilen, hdoff, hdlen, -⟩ := h.lengths
  exact { h with
    obuf_wf := by rw [hobuf]; exact Mem.wf_writeList frame _ 0 h.obuf_wf
    obuf_inside := by rw [hobuf]; exact Mem.writeList_inside frame _ 0 _ (by omega) h.obuf_inside
    lengths := ⟨hilen, hdoff, hdlen, by omega⟩
    err_code := by simp [State.wrapOperand]
    err_byte := by simp [State.wrapOperand]
    output_group := fun _ => ⟨fields, frame, hframe, by rw [hobuf, holen]; exact Mem.readList_writeList _ 0 frame⟩ }

theorem State.Inv.decodeOperand {s : State} (h : s.Inv) {m : List Byte} (hm : m.length ≤ Config.maxMsg) :
    (s.decodeOperand m).Inv := by
  rcases State.decodeOperand_uniform m with ⟨e, he⟩ | ⟨h6, source, hf⟩
  · rw [he]
    exact (h.setCsum _).raise _ _
  · rw [hf]
    exact (h.setCsum _).setFrame _ _ _ _ (by omega)

theorem State.Inv.loadMessage {s : State} (h : s.Inv) {m : List Byte} (hm : m.length ≤ Config.maxMsg) :
    (s.loadMessage m).Inv :=
  h.hostSide (Config.lenTrunc_lt _) (Mem.wf_writeList m _ 0 h.ibuf_wf)
    (Mem.writeList_inside m _ 0 _ (by omega) h.ibuf_inside)

theorem State.Inv.hostWrite {s t : State} (h : s.Inv) {port : Port} {v : Nat} (hw : s.hostWrite port v = .next t) :
    t.Inv := by
  rcases State.hostWrite_next hw with ⟨-, rfl⟩ | ⟨-, rfl⟩ | ⟨-, rfl⟩ | ⟨-, rfl⟩ | ⟨-, rfl⟩ | ⟨a, -, ha, rfl⟩ | rfl
  · exact h.hostSide (Config.lenTrunc_lt _) h.ibuf_wf h.ibuf_inside
  · exact { h with }
  · exact { h with }
  · exact { h with }
  · exact { h with }
  · exact h.hostSide h.lengths.1 (Mem.wf_write _ a _ h.ibuf_wf) (Mem.write_inside _ a _ _ ha h.ibuf_inside)
  · exact h

theorem State.Inv.resetEvent (s : State) : s.resetEvent.Inv := { resetMeetsInvariant with }

/-! ## Every step keeps the invariant -/

theorem CommandResult.inv {i : Instr} {s t : State} (h : CommandResult s i t) (hs : s.Inv) : t.Inv := by
  cases h with
  | failed e => exact hs.raise e _
  | table b k => exact hs.setResult b k
  | summed c => exact (hs.setCsum c).succeed
  | decoded m fits => exact hs.decodeOperand fits
  | wrapped fields domain => exact hs.wrapOperand domain

theorem State.Inv.receive {s t : State} (h : s.Inv) {m : List Byte} (hm : s.receive m = .next t) : t.Inv := by
  obtain ⟨hfits, hdecode⟩ := State.receive_next hm
  exact (State.runDecode_result hdecode).inv (h.loadMessage hfits)

theorem HostResult.inv {s t : State} {e : Event} (h : HostResult s e t) (hs : s.Inv) : t.Inv := by
  cases h with
  | recorded => exact { hs with }
  | wrote port v write => exact hs.hostWrite write
  | loaded m fits => exact hs.loadMessage fits
  | received field m receive => exact hs.receive receive
  | reset => exact State.Inv.resetEvent s

theorem State.Inv.engineStep {s t : State} (h : s.Inv) {code : BitVec 4} (ht : s.engineStep code = .next t) :
    t.Inv := by
  rcases State.engineStep_next ht with ⟨i, hi, hexec⟩ | ⟨-, rfl⟩
  · exact (exec_command_result (formatOf_of_decodeCommand hi) hexec).inv h
  · exact h.raise _ _

/-- Settles O53: whichever form the step's next state takes, the operation that makes it keeps the invariant. -/
theorem stepKeepsInvariant : Obligations.StepKeepsInvariant := by
  intro s t h hstep
  rcases State.advance_next hstep with ⟨code, -, hengine⟩ | ⟨-, -, rfl⟩ | ⟨-, e, rest, -, hhost⟩
  · have hs : State.Inv { s with cmd := none } := { h with }
    exact hs.engineStep hengine
  · exact h
  · exact (State.hostStep_result hhost).inv { h with }

/-! ## Two runs of one instruction -/

/-- A group that both runs lose is the same result: neither holds anything. -/
theorem Group.sameResult_raise (s s' : State) (e : ErrKind) {gs : List Group} {g : Group} (hg : g ∈ gs) :
    g.SameResult (s.raise e gs) (s'.raise e gs) := by
  cases g <;> simp [Group.SameResult, hg]

theorem sameOutcome_raise {i : Instr} {gs : List Group} (s s' : State) (e : ErrKind) (howns : owns i ⊆ gs) :
    SameOutcome i (.next (s.raise e gs)) (.next (s'.raise e gs)) :=
  ⟨by simp, by simp, fun _ hg => Group.sameResult_raise s s' e (howns hg)⟩

theorem sameOutcome_setResult {i : Instr} (s s' : State) (b : Byte) (k : BitVec 2) (howns : owns i = [.r]) :
    SameOutcome i (.next (s.setResult b k)) (.next (s'.setResult b k)) :=
  ⟨by simp, by simp, by simp [howns, Group.SameResult]⟩

theorem sameOutcome_decodeOperand {i : Instr} (s s' : State) (m : List Byte) (howns : owns i = [.f, .c]) :
    SameOutcome i (.next (s.decodeOperand m)) (.next (s'.decodeOperand m)) := by
  rcases State.decodeOperand_uniform m with ⟨e, he⟩ | ⟨-, source, hf⟩
  · rw [he, he]
    refine ⟨by simp, by simp, ?_⟩
    simp [howns, Group.SameResult, State.raise_csum]
  · rw [hf, hf]
    refine ⟨by simp, by simp, ?_⟩
    simp [howns, Group.SameResult]

theorem sameOutcome_wrapOperand (s s' : State) {fields : List Byte} (hk : fields.length ≤ 253) :
    SameOutcome .wrap (.next (s.wrapOperand fields)) (.next (s'.wrapOperand fields)) := by
  obtain ⟨frame, -, hlength, hobuf⟩ := State.wrapOperand_output fields hk
  have hread : ∀ a < (s.wrapOperand fields).olen,
      (s'.wrapOperand fields).obuf.read a = (s.wrapOperand fields).obuf.read a := by
    intro a ha
    have ha : a < frame.length := by rw [hlength]; exact ha
    rw [hobuf, hobuf, Mem.read_writeList, Mem.read_writeList, if_pos (by omega), if_pos (by omega)]
  refine ⟨rfl, rfl, fun g hg => ?_⟩
  cases g with
  | c => exact ⟨rfl, fun _ => rfl⟩
  | o => exact ⟨rfl, fun _ => ⟨rfl, hread⟩⟩
  | f => simp [owns] at hg
  | r => simp [owns] at hg

/-- States that agree on `ILEN` and on the bytes below it present the same operand. -/
theorem State.SameBuffer.operandBytes_eq {s s' : State} (h : s.SameBuffer s') : s'.operandBytes = s.operandBytes := by
  obtain ⟨hlen, hread⟩ := h
  unfold State.operandBytes
  rw [hlen]
  exact Mem.readList_congr _ _ _ _ fun a ha => by simpa using hread a ha

theorem State.SameBuffer.badLength_eq {s s' : State} (h : s.SameBuffer s') : s'.badLength = s.badLength := by
  rw [State.badLength, h.1, State.badLength]

/-- Two states into which the same message was loaded agree on the operand. -/
theorem State.loadMessage_sameBuffer (s s' : State) (m : List Byte) (hm : m.length ≤ Config.maxMsg) :
    (s.loadMessage m).SameBuffer (s'.loadMessage m) := by
  refine ⟨rfl, fun a ha => ?_⟩
  rw [(s.loadMessage_operand m hm).1] at ha
  rw [State.loadMessage_ibuf, State.loadMessage_ibuf, Mem.read_writeList, Mem.read_writeList, if_pos (by omega),
    if_pos (by omega)]

theorem sameOutcome_execCsum {s s' : State} (hsize : s'.size = s.size) (hbuffer : s.SameBuffer s') :
    SameOutcome .csum (execCsum s) (execCsum s') := by
  unfold execCsum
  rw [hbuffer.operandBytes_eq, hbuffer.badLength_eq, hsize]
  cases s.badLength with
  | true => exact sameOutcome_raise s s' _ (List.Subset.refl _)
  | false =>
    cases s.operandBytes with
    | none => rfl
    | some payload => exact ⟨rfl, rfl, by simp [owns, Group.SameResult]⟩

theorem sameOutcome_runDecode {i : Instr} {s s' : State} (howns : owns i = [.f, .c]) (hbuffer : s.SameBuffer s') :
    SameOutcome i s.runDecode s'.runDecode := by
  unfold State.runDecode
  rw [hbuffer.operandBytes_eq, hbuffer.badLength_eq, hbuffer.1]
  cases s.badLength with
  | true => exact sameOutcome_raise s s' _ (by simp [howns])
  | false =>
    by_cases h4 : s.ilen < 4
    · rw [if_pos h4, if_pos h4]
      exact sameOutcome_raise s s' _ (by simp [howns])
    · rw [if_neg h4, if_neg h4]
      cases s.operandBytes with
      | none => rfl
      | some m => exact sameOutcome_decodeOperand s s' m howns

theorem sameOutcome_execWrap {s s' : State} (hbuffer : s.SameBuffer s') :
    SameOutcome .wrap (execWrap s) (execWrap s') := by
  unfold execWrap
  rw [hbuffer.operandBytes_eq, hbuffer.badLength_eq, hbuffer.1]
  cases s.badLength with
  | true => exact sameOutcome_raise s s' _ (List.Subset.refl _)
  | false =>
    by_cases hk : 253 < s.ilen
    · rw [if_pos hk, if_pos hk]
      exact sameOutcome_raise s s' _ (List.Subset.refl _)
    · rw [if_neg hk, if_neg hk]
      cases hf : s.operandBytes with
      | none => rfl
      | some fields => exact sameOutcome_wrapOperand s s' (by rw [State.length_of_operandBytes hf]; omega)

/-- A message brings its operand with it, so its arrival has one result in every state. -/
theorem sameOutcome_receive {i : Instr} (s s' : State) (m : List Byte) (howns : owns i = [.f, .c]) :
    SameOutcome i (s.receive m) (s'.receive m) := by
  unfold State.receive
  cases hlong : Config.tooLong m.length with
  | true => rfl
  | false =>
    exact sameOutcome_runDecode howns (State.loadMessage_sameBuffer s s' m ((Config.tooLong_false_iff _).1 hlong))

/-- `ARG` is read for kind 3 alone (41_enum_tables R133). -/
theorem State.opcodeOperand_congr {s s' : State} (hargk : s'.argk = s.argk) (harg : s.argk = 3#2 → s'.arg = s.arg) :
    s'.opcodeOperand = s.opcodeOperand := by
  unfold State.opcodeOperand opcodeOfKind
  rw [hargk]
  split
  · rfl
  · split
    · rfl
    · split
      · rfl
      · rw [harg (by bv_omega)]

/-- Settles O47: both runs take the same branch, and a branch's result is made of the operands alone. A frame row is the
arrival of its message. -/
theorem resultsDependOnOperandsOnly : Obligations.ResultsDependOnOperandsOnly := by
  intro i s s' h
  cases i with
  | csum => exact sameOutcome_execCsum h.1 h.2
  | decode => exact sameOutcome_runDecode rfl h
  | wrap => exact sameOutcome_execWrap h
  | opdec =>
    have harg : s'.arg = s.arg := h
    simp only [exec, execOpdec, harg]
    exact sameOutcome_setResult s s' _ _ rfl
  | openc =>
    obtain ⟨hargk, harg⟩ := h
    simp only [exec, execOpenc, State.opcodeOperand_congr hargk harg, hargk]
    exact sameOutcome_setResult s s' _ _ rfl
  | srcdec =>
    have harg : s'.arg = s.arg := h
    simp only [exec, execSrcdec, harg]
    cases sourceOfByte s.arg with
    | none => exact sameOutcome_raise s s' _ (List.Subset.refl _)
    | some source => exact sameOutcome_setResult s s' _ _ rfl
  | srcenc =>
    have hargk : s'.argk = s.argk := h
    simp only [exec, execSrcenc, State.sourceOperand, hargk]
    cases sourceOfKind s.argk with
    | none => exact sameOutcome_raise s s' _ (List.Subset.refl _)
    | some source => exact sameOutcome_setResult s s' _ _ rfl
  | stdec =>
    have harg : s'.arg = s.arg := h
    simp only [exec, execStdec, harg]
    exact sameOutcome_setResult s s' _ _ rfl
  | ctdec =>
    have harg : s'.arg = s.arg := h
    simp only [exec, execCtdec, harg]
    cases contentTypeOfByte s.arg with
    | none => exact sameOutcome_raise s s' _ (List.Subset.refl _)
    | some known =>
      cases known
      exact sameOutcome_setResult s s' _ _ rfl
  | _ => exact sameOutcome_receive s s' _ rfl

/-! ## Reset and the host -/

/-- Settles O6: the engine's step for a code that names a command is that command. -/
theorem stepRunsPendingCommand : Obligations.StepRunsPendingCommand := by
  intro s code i hc hi
  rw [step_engine hc, State.engineStep, hi]

/-- Settles O56: a reset event puts the given values of `State.reset` back. -/
theorem resetState : Obligations.ResetState := by
  have values : State.reset.err = 0#3 ∧ State.reset.errb = 0x00#8 ∧ State.reset.cValid = false
      ∧ State.reset.fValid = false ∧ State.reset.oValid = false ∧ State.reset.rValid = false ∧ State.reset.cmd = none
      ∧ ∀ a, State.reset.ibuf.read a = none ∧ State.reset.obuf.read a = none :=
    ⟨rfl, rfl, rfl, rfl, rfl, rfl, rfl, fun _ => ⟨rfl, rfl⟩⟩
  exact ⟨values, fun s rest hc he => ⟨_, step_host hc he, values⟩⟩

/-- The width of the length registers (00_scope R8): `MAXMSG + 1` needs one more bit only where it is a power of two. -/
theorem maxMsg_succ_lt_or_pow : Config.maxMsg + 1 < 2 ^ Config.lenw ∨ ∃ k, Config.maxMsg + 1 = 2 ^ k := by
  have := Config.maxMsg_lt
  by_cases h : Config.maxMsg + 1 = 2 ^ Config.lenw
  · exact .inr ⟨_, h⟩
  · exact .inl (by omega)

theorem outside_eq_false {a : Nat} (h : a < Config.maxMsg) : outside a = false := by
  rw [← Bool.not_eq_true, outside_iff]
  omega

/-- Settles O57: a place takes a value of its own width whole, and no write reaches OBUF or a read-only register. -/
theorem hostWrites : Obligations.HostWrites := by
  intro s b k code
  refine ⟨fun n hn => ?_, Config.maxMsg_lt, maxMsg_succ_lt_or_pow, ?_, ?_, ?_, ?_, fun a ha => ?_, fun a v ha => ?_,
    fun v => by simp [State.hostWrite]⟩
  · simp [State.hostWrite, Config.lenTrunc_eq, Nat.mod_eq_of_lt hn]
  · simp [State.hostWrite]
  · simp [State.hostWrite]
  · simp [State.hostWrite]
  · simp [State.hostWrite]
  · exact ⟨_, State.hostWrite_ibuf b ha, rfl, fun x => Mem.read_write _ _ _ _⟩
  · simp [State.hostWrite, outside_eq_false ha]

/-- A register of a valid group reads as its content. -/
@[simp] theorem State.readGroup_true (s : State) (slot width value : Nat) :
    s.readGroup true slot width value = value := rfl

/-- What a host read returns depends neither on the host's remaining steps nor on what was read before. -/
theorem State.hostRead_hostRecord (s : State) (events : List Event) (rdata : Nat) (port : Port) :
    State.hostRead { s with events := events, rdata := rdata } port = s.hostRead port := by
  cases port <;> rfl

/-- Settles O58: a place that holds a value reads as it, and the record of the host that a read changes is no place. -/
theorem hostReadsHaveNoSideEffect : Obligations.HostReadsHaveNoSideEffect := by
  refine ⟨fun s => ⟨by simp [State.hostRead], fun h => ?_, fun h => ?_, fun h => ?_, fun h => ?_, fun a b ha hb => ?_,
    fun a b ha hv hlt hb => ?_⟩, fun s t port rest hc he h => ?_⟩
  · simp [State.hostRead, h]
  · simp [State.hostRead, h]
  · simp [State.hostRead, h]
  · simp [State.hostRead, h]
  · simp [State.hostRead, outside_eq_false ha, State.readInput, hb]
  · simp [State.hostRead, outside_eq_false ha, State.readOutput, hb, hv, hlt]
  · rw [step_host hc he] at h
    simp only [State.hostStep] at h
    split at h
    · next v hv =>
      have hv : s.hostRead port = some v := hv
      cases h
      exact ⟨rfl, hv, (State.hostRead_hostRecord s rest v port).trans hv⟩
    · cases h

end Sys2Proof.Machine

/-!
PROOFS. The statements of 30_encoding: decoder and encoder undo each other, the decoder follows the opcode table's masks, a
frame row is the DECODE of its message, and what the host's copies, loopback, sending and FRAME do. The decoder is taken
apart once per format (`decodeCommand_encode`, `decodeFrame_encode`); the masks are stated of any 32-bit word, as the field
or the bit they select; FRAME is cut into its encodings, its load and its WRAP.
-/

namespace Sys2Proof.Machine

/-! ## Command codes -/

theorem decodeCommand_unassigned {code : BitVec 4} (h : code = 0x0#4 ∨ 0xA ≤ code.toNat) :
    decodeCommand code = .error (.unassignedCommand code) := by
  revert code; decide

theorem decodeCommand_assigned {code : BitVec 4} (h : ¬ (code = 0x0#4 ∨ 0xA ≤ code.toNat)) :
    (decodeCommand code).isOk = true := by
  revert code; decide

/-- The codes that name no command (30_encoding R89). -/
theorem decodeCommand_refused_iff (code : BitVec 4) :
    (∃ e, decodeCommand code = .error e) ↔ code = 0x0#4 ∨ 0xA ≤ code.toNat := by
  refine ⟨fun ⟨e, he⟩ => ?_, fun h => ⟨_, decodeCommand_unassigned h⟩⟩
  by_contra h
  have hok := decodeCommand_assigned h
  rw [he] at hok
  cases hok

/-- A command's one byte is its code (30_encoding R88). -/
theorem decodeCommand_encode {code : BitVec 4} {i : Instr} (h : decodeCommand code = .ok i) :
    encode i = [code.setWidth 8] ∧ i.wellFormed = true := by
  unfold decodeCommand at h
  split_ifs at h
  all_goals
    cases h
    subst code
    exact ⟨rfl, rfl⟩

/-- Settles O4: the nine codes by evaluation, the refused ones by `decodeCommand_refused_iff`. -/
theorem commandCodes : Obligations.CommandCodes :=
  ⟨rfl, rfl, rfl, rfl, rfl, rfl, rfl, rfl, rfl, decodeCommand_refused_iff⟩

/-- Settles O5, by evaluating the decoder on each word. -/
theorem specWordsDecode : Obligations.SpecWordsDecode := ⟨rfl, rfl, rfl, rfl, rfl, rfl⟩

/-- Settles O8: the engine answers a refused code with BadCommand, which owns no group. -/
theorem unassignedCodeIsBadCommand : Obligations.UnassignedCodeIsBadCommand := by
  intro s code hc hcode
  rw [step_engine hc, State.engineStep, decodeCommand_unassigned hcode]
  rfl

/-! ## Decoder and encoder -/

/-- The row a message matches encodes as that message, and is well-formed exactly when the message fits IBUF. -/
theorem decodeFrame_encode {field : Field} {m : List Byte} {i : Instr} (h : decodeFrame field m = .ok i) :
    encode i = m ∧ formatOf i = .frame field ∧ i.wellFormed = !Config.tooLong m.length := by
  match m with
  | [] | [_] | [_, _] | [_, _, _] => cases field <;> cases h
  | l :: o :: src :: st :: rest =>
    cases field with
    | opcode =>
      simp only [decodeFrame] at h
      split_ifs at h with hack hnack hdata <;> cases h
      · subst hack; exact ⟨rfl, rfl, rfl⟩
      · subst hnack; exact ⟨rfl, rfl, rfl⟩
      · subst hdata; exact ⟨rfl, rfl, rfl⟩
      · exact ⟨rfl, rfl, by simp [Instr.wellFormed, namedOpcode, messageFits, hack, hnack, hdata]⟩
    | source =>
      simp only [decodeFrame] at h
      split_ifs at h with hscanner hhost <;> cases h
      · subst hscanner; exact ⟨rfl, rfl, rfl⟩
      · subst hhost; exact ⟨rfl, rfl, rfl⟩
    | status =>
      simp only [decodeFrame] at h
      split_ifs at h with h0 h1 h3 <;> cases h
      · exact ⟨rfl, rfl, by simp only [Instr.wellFormed, messageFits, h0]; rfl⟩
      · exact ⟨rfl, rfl, by simp only [Instr.wellFormed, messageFits, h0, h1]; rfl⟩
      · exact ⟨rfl, rfl, by simp only [Instr.wellFormed, messageFits, h0, h1, h3]; rfl⟩

/-- Settles O2: a command's code and a message are each the encoding of what they decode to. -/
theorem encodeOfDecode : Obligations.EncodeOfDecode := by
  intro format bytes i h
  cases format with
  | frame field =>
    obtain ⟨hencode, hformat, hwf⟩ := decodeFrame_encode h
    exact ⟨hencode, hformat, fun hfits => by rw [hwf, (Config.tooLong_false_iff _).2 hfits, Bool.not_false]⟩
  | command =>
    match bytes with
    | [] | _ :: _ :: _ => cases h
    | [b] =>
      simp only [decodeBytes] at h
      split_ifs at h with hb
      obtain ⟨hencode, hwf⟩ := decodeCommand_encode h
      refine ⟨?_, formatOf_of_decodeCommand h, fun _ => hwf⟩
      rw [hencode]
      congr 1
      bv_omega

/-- Settles O1: a row fixed by its field's value decodes by evaluation; OTHER and the status rows need what well-formedness
says of the named opcode bytes and of the lower status bits. -/
theorem decodeOfEncode : Obligations.DecodeOfEncode := by
  intro i hi
  cases i with
  | other l o src st rest =>
    simp only [Instr.wellFormed, namedOpcode, Bool.and_eq_true, Bool.not_eq_true', Bool.or_eq_false_iff,
      beq_eq_false_iff_ne] at hi
    obtain ⟨⟨⟨hack, hnack⟩, hdata⟩, -⟩ := hi
    simp [formatOf, encode, decodeBytes, decodeFrame, hack, hnack, hdata]
  | stRetransmit l o src st rest =>
    simp only [Instr.wellFormed, Bool.and_eq_true] at hi
    simp only [formatOf, encode, decodeBytes, decodeFrame, hi, if_true]
  | stContinuation l o src st rest =>
    simp only [Instr.wellFormed, Bool.and_eq_true, Bool.not_eq_true'] at hi
    simp only [formatOf, encode, decodeBytes, decodeFrame, hi, if_true, Bool.false_eq_true, if_false]
  | stChangeType l o src st rest =>
    simp only [Instr.wellFormed, Bool.and_eq_true, Bool.not_eq_true'] at hi
    simp only [formatOf, encode, decodeBytes, decodeFrame, hi, if_true, Bool.false_eq_true, if_false]
  | _ => rfl

/-! ## The opcode table's masks -/

/-- A mask over one byte of a word keeps that byte in its place. -/
theorem and_byteMask (h : BitVec 32) (k : Nat) :
    h &&& (0xFF#32 <<< k) = (h.extractLsb' k 8).setWidth 32 <<< k := by
  have hones : 0xFF#32 = (BitVec.allOnes 8).setWidth 32 := rfl
  ext i hi
  simp only [hones, BitVec.getElem_and, BitVec.getElem_shiftLeft, BitVec.getElem_setWidth, BitVec.getLsbD_allOnes,
    BitVec.getLsbD_extractLsb']
  by_cases hk : i < k
  · simp [hk]
  · simp [hk, show k + (i - k) = i by omega, BitVec.getLsbD_eq_getElem hi, Bool.and_comm]

/-- A row that masks one byte accepts the words that hold its value there. -/
theorem byteMask_accepts (h : BitVec 32) (b : Byte) {k : Nat} (hk : k + 8 ≤ 32) :
    (h &&& (0xFF#32 <<< k) == b.setWidth 32 <<< k) = (h.extractLsb' k 8 == b) := by
  rw [and_byteMask, Bool.eq_iff_iff, beq_iff_eq, beq_iff_eq]
  refine ⟨fun heq => ?_, fun heq => by rw [heq]⟩
  ext i hi
  have := congrArg (fun v => v.getLsbD (k + i)) heq
  simpa [hi, show k + i < 32 by omega] using this

/-- A row that masks one bit accepts the words that have it set. -/
theorem bitMask_accepts (h : BitVec 32) {k : Nat} (hk : k < 32) :
    (h &&& BitVec.twoPow 32 k == BitVec.twoPow 32 k) = h.getLsbD k := by
  rw [BitVec.and_twoPow]
  cases h.getLsbD k with
  | true => simp
  | false =>
    have hne : 0#32 ≠ BitVec.twoPow 32 k := fun heq => by
      simpa [hk] using congrArg (fun v => v.getLsbD k) heq
    simpa using hne

theorem headerWord_toNat (l o src st : Byte) :
    (headerWord l o src st).toNat = l.toNat * 16777216 + o.toNat * 65536 + src.toNat * 256 + st.toNat := by
  have hl := l.isLt
  have ho := o.isLt
  have hsrc := src.isLt
  have hst := st.isLt
  simp only [headerWord, BitVec.toNat_ofNat, Nat.reducePow]
  omega

/-- The header word holds the header's bytes, the status byte lowest (30_encoding R92). -/
theorem extract_headerWord (l o src st : Byte) :
    (headerWord l o src st).extractLsb' 16 8 = o ∧ (headerWord l o src st).extractLsb' 8 8 = src
      ∧ (headerWord l o src st).extractLsb' 0 8 = st := by
  have ho := o.isLt
  have hsrc := src.isLt
  have hst := st.isLt
  refine ⟨?_, ?_, ?_⟩ <;> apply BitVec.eq_of_toNat_eq <;>
    rw [BitVec.extractLsb'_toNat, headerWord_toNat, Nat.shiftRight_eq_div_pow] <;> omega

theorem getLsbD_headerWord (l o src st : Byte) {k : Nat} (hk : k < 8) :
    (headerWord l o src st).getLsbD k = st.getLsbD k := by
  obtain ⟨-, -, hst⟩ := extract_headerWord l o src st
  simpa [hk] using congrArg (fun v => v.getLsbD k) hst

/-- The first row of a list that meets a test, row by row. -/
theorem map_find?_cons {α β : Type} (p : α → Bool) (f : α → β) (a : α) (l : List α) :
    ((a :: l).find? p).map f = if p a then some (f a) else (l.find? p).map f := by
  rw [List.find?_cons]
  cases p a <;> rfl

/-- The opcode rows test the header's second byte; OTHER takes what the named rows leave (30_encoding R80, R92). -/
theorem rowOf_opcode (h : BitVec 32) : rowOf .opcode h =
    if h.extractLsb' 16 8 = 0xd0#8 then some "ACK" else if h.extractLsb' 16 8 = 0xd1#8 then some "NACK"
      else if h.extractLsb' 16 8 = 0xf3#8 then some "DECODE_DATA" else some "OTHER" := by
  have hack : (h &&& 0x00FF0000#32 == 0x00D00000#32) = (h.extractLsb' 16 8 == 0xd0#8) :=
    byteMask_accepts h 0xd0#8 (k := 16) (by decide)
  have hnack : (h &&& 0x00FF0000#32 == 0x00D10000#32) = (h.extractLsb' 16 8 == 0xd1#8) :=
    byteMask_accepts h 0xd1#8 (k := 16) (by decide)
  have hdata : (h &&& 0x00FF0000#32 == 0x00F30000#32) = (h.extractLsb' 16 8 == 0xf3#8) :=
    byteMask_accepts h 0xf3#8 (k := 16) (by decide)
  simp [rowOf, frameRows, map_find?_cons, FrameRow.accepts, hack, hnack, hdata]

/-- The source rows test the header's third byte (30_encoding R81, R92). -/
theorem rowOf_source (h : BitVec 32) : rowOf .source h =
    if h.extractLsb' 8 8 = 0x00#8 then some "SRC_SCANNER" else if h.extractLsb' 8 8 = 0x04#8 then some "SRC_HOST"
      else none := by
  have hscanner : (h &&& 0x0000FF00#32 == 0x00000000#32) = (h.extractLsb' 8 8 == 0x00#8) :=
    byteMask_accepts h 0x00#8 (k := 8) (by decide)
  have hhost : (h &&& 0x0000FF00#32 == 0x00000400#32) = (h.extractLsb' 8 8 == 0x04#8) :=
    byteMask_accepts h 0x04#8 (k := 8) (by decide)
  simp [rowOf, frameRows, map_find?_cons, FrameRow.accepts, hscanner, hhost]

/-- The status rows test one bit each, the lowest first (30_encoding R82, R92; log entry 11). -/
theorem rowOf_status (h : BitVec 32) : rowOf .status h =
    if h.getLsbD 0 then some "ST_RETRANSMIT" else if h.getLsbD 1 then some "ST_CONTINUATION"
      else if h.getLsbD 3 then some "ST_CHANGETYPE" else none := by
  have h0 : (h &&& 0x00000001#32 == 0x00000001#32) = h.getLsbD 0 := bitMask_accepts h (k := 0) (by decide)
  have h1 : (h &&& 0x00000002#32 == 0x00000002#32) = h.getLsbD 1 := bitMask_accepts h (k := 1) (by decide)
  have h3 : (h &&& 0x00000008#32 == 0x00000008#32) = h.getLsbD 3 := bitMask_accepts h (k := 3) (by decide)
  simp [rowOf, frameRows, map_find?_cons, FrameRow.accepts, h0, h1, h3]

/-- Settles O3: under each field the decoder tests what the masks of that field's rows select, in the table's order. -/
theorem frameRowsFollowMasks : Obligations.FrameRowsFollowMasks := by
  intro field l o src st rest
  obtain ⟨hopcode, hsource, -⟩ := extract_headerWord l o src st
  cases field with
  | opcode =>
    rw [rowOf_opcode, hopcode]
    simp only [decodeFrame]
    split_ifs <;> rfl
  | source =>
    rw [rowOf_source, hsource]
    simp only [decodeFrame]
    split_ifs <;> rfl
  | status =>
    rw [rowOf_status]
    simp only [decodeFrame, getLsbD_headerWord _ _ _ _ (show 0 < 8 by decide),
      getLsbD_headerWord _ _ _ _ (show 1 < 8 by decide), getLsbD_headerWord _ _ _ _ (show 3 < 8 by decide)]
    split_ifs <;> rfl

/-! ## The frame rows -/

/-- A frame row is the arrival of its message (log entry 11). -/
theorem exec_frameRow {i : Instr} (hi : formatOf i ≠ .command) (s : State) : exec i s = s.receive (encode i) := by
  cases i with
  | csum | decode | wrap | opdec | openc | srcdec | srcenc | stdec | ctdec => exact absurd rfl hi
  | _ => rfl

theorem State.receive_of_fits {m : List Byte} (hm : m.length ≤ Config.maxMsg) (s : State) :
    s.receive m = exec .decode (s.loadMessage m) := by
  rw [State.receive, (Config.tooLong_false_iff _).2 hm]
  rfl

theorem State.receive_of_tooLong {m : List Byte} (hm : Config.maxMsg < m.length) (s : State) :
    s.receive m = .fault .noSuchByte := by
  rw [State.receive, (Config.tooLong_iff _).2 hm]
  rfl

/-- Settles O9: the arrival of a message is its load and a DECODE. -/
theorem frameRowIsDecodeOfItsMessage : Obligations.FrameRowIsDecodeOfItsMessage := by
  intro s i hi
  refine ⟨?_, s.loadMessage_operand (encode i)⟩
  rw [exec_frameRow hi]
  split_ifs with hfits
  · exact s.receive_of_fits hfits
  · exact s.receive_of_tooLong (by omega)

/-- Settles O42: the load leaves the message in IBUF, and DECODE keeps IBUF and everything it does not own. -/
theorem frameRowFrame : Obligations.FrameRowFrame := by
  intro i s t hi h
  rw [exec_frameRow hi] at h
  obtain ⟨hfits, hdecode⟩ := State.receive_next h
  obtain ⟨hhost, ⟨hilen, hibuf⟩, -⟩ := (State.runDecode_result hdecode).keepsAllBut
  refine ⟨hhost, ?_, fun a ha => ?_, fun a ha => ?_, State.receive_kept h (by simp), State.receive_kept h (by simp)⟩
  · rw [hilen, (s.loadMessage_operand _ hfits).1]
  · rw [hibuf, State.loadMessage_ibuf, Mem.read_writeList, if_pos (by omega), Nat.sub_zero]
  · rw [hibuf, State.loadMessage_ibuf, Mem.read_writeList_outside _ _ _ _ (by omega)]

/-! ## Host programs -/

/-- The first bytes of a list that is read are read too. -/
theorem Mem.readList_take {m : Mem} {a n k : Nat} {l : List Byte} (h : m.readList a n = some l) (hk : k ≤ n) :
    m.readList a k = some (l.take k) := by
  rw [Mem.readList_eq_some] at h ⊢
  obtain ⟨hlength, hread⟩ := h
  refine ⟨by simp; omega, fun i hi => ?_⟩
  rw [hread i (by omega), List.getElem?_take_of_lt hi]

theorem State.hostWrite_argk (s : State) (k : BitVec 2) : s.hostWrite .argk k.toNat = .next { s with argk := k } := by
  simp [State.hostWrite]

theorem State.hostWrite_arg (s : State) (b : Byte) : s.hostWrite .arg b.toNat = .next { s with arg := b } := by
  simp [State.hostWrite]

theorem State.hostWrite_cmd (s : State) (code : BitVec 4) :
    s.hostWrite .cmd code.toNat = .next { s with cmd := some code } := by
  simp [State.hostWrite]

/-- A run that begins with a write of the host. -/
theorem runSteps_write {s u : State} {port : Port} {v n : Nat} {rest : List Event}
    {o : Host.Outcome State Fault Refusal} (hc : s.cmd = none) (he : s.events = .write port v :: rest)
    (hw : State.hostWrite { s with events := rest } port v = .next u) (hrun : runSteps n u = o) :
    runSteps (n + 1) s = o :=
  (runSteps_succ n ((step_host hc he).trans hw)).trans hrun

/-- A run that begins with a write of one of the host's variables. -/
theorem runSteps_put {s u : State} {port : Port} {var : HostVar} {v n : Nat} {rest : List Event}
    {o : Host.Outcome State Fault Refusal} (hc : s.cmd = none) (he : s.events = .put port var :: rest)
    (hv : s.hostVar var = v) (hw : State.hostWrite { s with events := rest } port v = .next u)
    (hrun : runSteps n u = o) : runSteps (n + 1) s = o := by
  refine (runSteps_succ n ((step_host hc he).trans ?_)).trans hrun
  subst hv
  cases var <;> exact hw

/-- A command is two steps: the host writes its code, the engine executes it. -/
theorem runSteps_command {s t : State} {code : BitVec 4} {i : Instr} {rest : List Event} (hc : s.cmd = none)
    (he : s.events = .write .cmd code.toNat :: rest) (hi : decodeCommand code = .ok i)
    (ht : exec i { s with events := rest } = .next t) : runSteps 2 s = .next t := by
  refine runSteps_write hc he (State.hostWrite_cmd _ code) (runSteps_one ?_)
  rw [step_engine rfl, State.engineStep, hi, ← hc]
  exact ht

/-- A table command whose result the host keeps in a variable. -/
theorem runSteps_keepResult {s : State} {var : HostVar} {b : Byte} {k : BitVec 2} {code : BitVec 4} {i : Instr}
    {rest : List Event} (hc : s.cmd = none) (he : s.events = .write .cmd code.toNat :: .keep var .res :: rest)
    (hi : decodeCommand code = .ok i)
    (ht : ∀ events, exec i { s with events := events } = .next (State.setResult { s with events := events } b k)) :
    runSteps 3 s = .next ((State.setResult { s with events := rest } b k).setHostVar var b.toNat) := by
  rw [runSteps_add 2 1 (runSteps_command hc he hi (ht _))]
  exact runSteps_one (step_events (State.setResult s b k) _ _ hc)

/-- The encoding of the opcode of FRAME leaves its byte in `x` (30_encoding R91). -/
theorem runSteps_encodeOpcode {s : State} {kind : BitVec 2} {b : Byte} {rest : List Event} (hc : s.cmd = none)
    (he : s.events =
      .write .argk kind.toNat :: .write .arg b.toNat :: .write .cmd 0x5 :: .keep .x .res :: rest) :
    ∃ t, runSteps 5 s = .next t ∧ t.cmd = none ∧ t.events = rest
      ∧ t.hostX = (byteOfOpcode (opcodeOfKind kind b)).toNat :=
  ⟨_, runSteps_write hc he (State.hostWrite_argk _ kind) <| runSteps_write hc rfl (State.hostWrite_arg _ b) <|
    runSteps_keepResult (code := 0x5#4) hc rfl rfl fun _ => rfl, hc, rfl, rfl⟩

/-- The encoding of the source of FRAME leaves its byte in `y` (30_encoding R91). -/
theorem runSteps_encodeSource {s : State} {source : Source} {rest : List Event} (hc : s.cmd = none)
    (he : s.events = .write .argk (kindOfSource source).toNat :: .write .cmd 0x7 :: .keep .y .res :: rest) :
    ∃ t, runSteps 4 s = .next t ∧ t.cmd = none ∧ t.events = rest ∧ t.hostX = s.hostX
      ∧ t.hostY = (byteOfSource source).toNat := by
  refine ⟨_, runSteps_write hc he (State.hostWrite_argk _ (kindOfSource source)) <|
    runSteps_keepResult (b := byteOfSource source) (k := kindOfSource source) (code := 0x7#4) hc rfl rfl ?_,
    hc, rfl, rfl, rfl⟩
  cases source <;> exact fun _ => rfl

/-- The header of FRAME: the host writes its two variables and the status byte (30_encoding R91). -/
theorem runSteps_writeHeader {s : State} {x y status : Byte} {rest : List Event} (hc : s.cmd = none)
    (hx : s.hostX = x.toNat) (hy : s.hostY = y.toNat)
    (he : s.events = .put (.ibuf 0) .x :: .put (.ibuf 1) .y :: .write (.ibuf 2) status.toNat :: rest) :
    runSteps 3 s = .next { s with ibuf := s.ibuf.writeList 0 [x, y, status], events := rest } := by
  have hmax := Config.maxMsg_ge
  exact runSteps_put hc he hx (State.hostWrite_ibuf x (by omega)) <|
    runSteps_put hc rfl hy (State.hostWrite_ibuf y (by omega)) <|
      runSteps_write hc rfl (State.hostWrite_ibuf status (by omega)) rfl

/-- A part of a message from offset `a` on, then the message's length. -/
theorem runSteps_writeTail {s : State} {a n : Nat} {bytes : List Byte} {rest : List Event} (hc : s.cmd = none)
    (he : s.events = byteWrites a bytes ++ .write .ilen n :: rest) (hf : a + bytes.length ≤ Config.maxMsg) :
    runSteps (bytes.length + 1) s =
      .next { s with ibuf := s.ibuf.writeList a bytes, ilen := Config.lenTrunc n, events := rest } := by
  rw [runSteps_add _ 1 (runSteps_byteWrites bytes a _ hc he hf)]
  exact runSteps_one (step_events { s with ibuf := s.ibuf.writeList a bytes } _ _ hc)

/-- The host writes the fields of FRAME, then their number (30_encoding R91): they are loaded as a message is. -/
theorem runSteps_loadFields {s : State} {x y status : Byte} {data : List Byte} {rest : List Event} (hc : s.cmd = none)
    (hx : s.hostX = x.toNat) (hy : s.hostY = y.toNat) (hk : data.length + 3 ≤ Config.maxMsg)
    (he : s.events = .put (.ibuf 0) .x :: .put (.ibuf 1) .y :: .write (.ibuf 2) status.toNat ::
      (byteWrites 3 data ++ .write .ilen (data.length + 3) :: rest)) :
    runSteps (3 + (data.length + 1)) s = .next { s.loadMessage (x :: y :: status :: data) with events := rest } := by
  rw [runSteps_add 3 _ (runSteps_writeHeader hc hx hy he)]
  exact runSteps_writeTail hc rfl (by omega)

/-- WRAP on fields within its domain (43_encoder R173). -/
theorem execWrap_of_fields {s : State} {fields : List Byte} (hf : s.operandBytes = some fields)
    (hk : fields.length ≤ 253) : execWrap s = .next (s.wrapOperand fields) := by
  have hilen : s.ilen ≤ 253 := State.length_of_operandBytes hf ▸ hk
  have hbad : s.badLength = false := s.badLength_false_iff.2 (by have := Config.maxMsg_ge; omega)
  simp [execWrap, hbad, hf, hilen]

/-- A successful WRAP leaves in `OBUF[0..OLEN]` the frame `wrap` gives (43_encoder R174). -/
theorem State.wrapOperand_readList (s : State) {fields : List Byte} (hk : fields.length ≤ 253) :
    ∃ frame, wrapFields fields = some frame
      ∧ (s.wrapOperand fields).obuf.readList 0 (s.wrapOperand fields).olen = some frame := by
  obtain ⟨frame, hframe, hlength, hobuf⟩ := State.wrapOperand_output fields hk
  have holen : (s.wrapOperand fields).olen = frame.length := hlength.symm
  exact ⟨frame, hframe, by rw [hobuf, holen]; exact Mem.readList_writeList _ 0 frame⟩

/-- The steps of FRAME are a WRAP of the encoded opcode, the encoded source, the status byte and the data (30_encoding R91,
43_encoder R175). -/
theorem runSteps_frameEvents {s : State} {kind : BitVec 2} {b : Byte} {source : Source} {status : Byte}
    {data fields : List Byte} {rest : List Event} (hc : s.cmd = none) (hdata : data.length ≤ 250)
    (he : s.events = frameEvents kind b (kindOfSource source) status data ++ rest)
    (hfields : fields = byteOfOpcode (opcodeOfKind kind b) :: byteOfSource source :: status :: data) :
    ∃ u : State, u.cmd = none ∧ u.events = rest ∧ u.operandBytes = some fields
      ∧ runSteps (data.length + 15) s = .next (u.wrapOperand fields) := by
  have hlength : fields.length = data.length + 3 := by rw [hfields]; rfl
  have hmax := Config.maxMsg_ge
  have he : s.events = .write .argk kind.toNat :: .write .arg b.toNat :: .write .cmd 0x5 :: .keep .x .res ::
      .write .argk (kindOfSource source).toNat :: .write .cmd 0x7 :: .keep .y .res ::
      .put (.ibuf 0) .x :: .put (.ibuf 1) .y :: .write (.ibuf 2) status.toNat ::
      (byteWrites 3 data ++ .write .ilen (data.length + 3) :: .write .cmd 0x3 :: rest) := by
    simp [he, frameEvents]
  obtain ⟨t, ht, htc, hte, htx⟩ := runSteps_encodeOpcode hc he
  obtain ⟨v, hv, hvc, hve, hvx, hvy⟩ := runSteps_encodeSource htc hte
  have hload := runSteps_loadFields hvc (hvx.trans htx) hvy (by omega) hve
  rw [← hfields] at hload
  obtain ⟨-, hoperand⟩ := v.loadMessage_operand fields (by omega)
  refine ⟨{ v.loadMessage fields with events := rest }, hvc, rfl, hoperand, ?_⟩
  rw [show data.length + 15 = 5 + (4 + (3 + (data.length + 1) + 2)) by omega, runSteps_add 5 _ ht, runSteps_add 4 _ hv,
    runSteps_add _ 2 hload]
  exact runSteps_command (code := 0x3#4) hvc rfl rfl (execWrap_of_fields hoperand (by omega))

/-- Settles O59: a copy is a read and a write, the loopback and SEND read a valid output as it is, and FRAME ends in a WRAP
whose fields are still in IBUF. -/
theorem hostProgramSteps : Obligations.HostProgramSteps := by
  intro s rest hc
  refine ⟨fun dst src v he hv => ?_, fun frame hvalid hframe hfits => ?_,
    fun kind b source status data hdata he => ?_⟩
  · have hread : State.hostRead { s with events := rest } src = some v := (s.hostRead_hostRecord _ _ _).trans hv
    rw [step_host hc he, State.hostStep, hread]
  · have hout : State.outputBytes { s with events := rest } = frame := State.outputBytes_of_valid hvalid hframe
    refine ⟨fun he => ?_, fun he => ?_⟩
    · rw [step_host hc he, State.hostStep, hout, (Config.tooLong_false_iff _).2 hfits]
      rfl
    · rw [step_host hc he, State.hostStep, hout]
  · obtain ⟨u, huc, hue, hoperand, hrun⟩ := runSteps_frameEvents hc hdata he rfl
    have hlength := State.length_of_operandBytes hoperand
    have hilen : u.ilen = data.length + 3 := hlength.symm
    obtain ⟨frame, hframe, hobuf⟩ := u.wrapOperand_readList (hlength.trans_le (by omega))
    exact ⟨_, frame, hrun, hframe, hobuf, rfl, rfl, huc, hue, Mem.readList_take hoperand (by omega)⟩

end Sys2Proof.Machine

/-!
PROOFS. The statements of 40_checksum. Each function of the checksum engine is read as a number once (`calcChecksum_toNat`,
`neg16_toNat`, `be16_toNat`), so that the statements become facts about sums modulo 65536. A message is cut into its parts
once (`message_eq_parts`); its checksum test is then a condition on the sum of all its bytes, which a change of one byte
breaks.
-/

namespace Sys2Proof.Machine

/-! ## The sum of a list of bytes -/

theorem sumBytes_eq_sum (l : List Byte) : sumBytes l = (l.map BitVec.toNat).sum := by
  induction l with
  | nil => rfl
  | cons b l ih => simp [sumBytes, ih]

@[simp] theorem sumBytes_append (p q : List Byte) : sumBytes (p ++ q) = sumBytes p + sumBytes q := by
  simp [sumBytes_eq_sum]

theorem sumBytes_perm {p q : List Byte} (h : p.Perm q) : sumBytes p = sumBytes q := by
  rw [sumBytes_eq_sum, sumBytes_eq_sum, (h.map BitVec.toNat).sum_eq]

theorem sumBytes_replicate (n : Nat) (b : Byte) : sumBytes (List.replicate n b) = n * b.toNat := by
  simp [sumBytes_eq_sum]

theorem sumBytes_le (l : List Byte) : sumBytes l ≤ 255 * l.length := by
  induction l with
  | nil => exact Nat.le_refl 0
  | cons b l ih =>
    have := b.isLt
    simp only [sumBytes, List.length_cons]
    omega

/-- Replacing a byte changes the sum by the difference of the two bytes. -/
theorem sumBytes_set {l : List Byte} {i : Nat} (hi : i < l.length) (b : Byte) :
    sumBytes (l.set i b) + (byteAt l i).toNat = sumBytes l + b.toNat := by
  induction l generalizing i with
  | nil => cases hi
  | cons a l ih =>
    cases i with
    | zero =>
      simp only [List.set_cons_zero, sumBytes, byteAt, List.getD_cons_zero]
      omega
    | succ i =>
      have := ih (Nat.lt_of_succ_lt_succ hi)
      simp only [byteAt] at this
      simp only [List.set_cons_succ, sumBytes, byteAt, List.getD_cons_succ]
      omega

/-! ## The engine's functions as numbers -/

@[simp] theorem zext16_toNat (b : Byte) : (zext16 b).toNat = b.toNat := by
  have := b.isLt
  rw [zext16, BitVec.toNat_ofNat, Nat.mod_eq_of_lt (by omega)]

@[simp] theorem neg16_toNat (v : U16) : (neg16 v).toNat = (65536 - v.toNat) % 65536 := by
  rw [neg16, BitVec.toNat_ofNat, Nat.mod_mod]

@[simp] theorem be16_toNat (hi lo : Byte) : (be16 hi lo).toNat = hi.toNat * 256 + lo.toNat := by
  have := hi.isLt
  have := lo.isLt
  rw [be16, BitVec.toNat_ofNat, Nat.mod_eq_of_lt (by omega)]

@[simp] theorem calcChecksum_toNat (size : Byte) (payload : List Byte) :
    (calcChecksum size payload).toNat = (size.toNat + sumBytes payload) % 65536 := by
  rw [calcChecksum, BitVec.toNat_ofNat, Nat.mod_mod]

/-- The checksum sees the payload's sum only. -/
theorem calcChecksum_congr (size : Byte) {p q : List Byte} (h : sumBytes p = sumBytes q) :
    calcChecksum size p = calcChecksum size q := by
  rw [calcChecksum, h, calcChecksum]

theorem calcChecksum_nil (size : Byte) : calcChecksum size [] = zext16 size := by
  apply BitVec.eq_of_toNat_eq
  have := size.isLt
  simp only [calcChecksum_toNat, zext16_toNat, sumBytes]
  omega

/-! ## The byte-serial forms -/

theorem serialChecksumFrom_toNat (acc : U16) (payload : List Byte) :
    (serialChecksumFrom acc payload).toNat = (acc.toNat + sumBytes payload) % 65536 := by
  induction payload generalizing acc with
  | nil =>
    have := acc.isLt
    simp only [serialChecksumFrom, sumBytes]
    omega
  | cons b rest ih =>
    simp only [serialChecksumFrom, ih, BitVec.toNat_ofNat, zext16_toNat, sumBytes]
    omega

/-- One step of the 8-bit adder adds the byte to the 16-bit value of the two halves: the carry out of `lo` goes into `hi`. -/
theorem splitStep_value (acc : Byte × Byte) (b : Byte) :
    (be16 (splitStep acc b).1 (splitStep acc b).2).toNat = ((be16 acc.1 acc.2).toNat + b.toNat) % 65536 := by
  have := acc.1.isLt
  have := acc.2.isLt
  have := b.isLt
  simp only [splitStep, be16_toNat, BitVec.toNat_ofNat]
  split_ifs <;> omega

theorem foldl_splitStep_value (acc : Byte × Byte) (payload : List Byte) :
    (be16 (payload.foldl splitStep acc).1 (payload.foldl splitStep acc).2).toNat
      = ((be16 acc.1 acc.2).toNat + sumBytes payload) % 65536 := by
  induction payload generalizing acc with
  | nil => exact (Nat.mod_eq_of_lt (be16 acc.1 acc.2).isLt).symm
  | cons b rest ih =>
    rw [List.foldl_cons, ih, splitStep_value, sumBytes, Nat.mod_add_mod, Nat.add_assoc]

/-- Settles O11: both walks keep the sum so far modulo 65536. -/
theorem serialFormsAgree : Obligations.SerialFormsAgree := by
  intro size payload
  constructor <;> apply BitVec.eq_of_toNat_eq
  · rw [serialChecksum, serialChecksumFrom_toNat, zext16_toNat, calcChecksum_toNat]
  · rw [splitChecksum, foldl_splitStep_value, be16_toNat, calcChecksum_toNat]
    simp

/-! ## Negation -/

theorem rxChecksum_eq (hi lo : Byte) : rxChecksum hi lo = neg16 (be16 hi lo) := asU16_neg_asI16 _

theorem txChecksum_eq (c : U16) : txChecksum c = (hi8 (neg16 c), lo8 (neg16 c)) := by
  rw [txChecksum, asU16_neg_asI16]

theorem neg16_neg16 (v : U16) : neg16 (neg16 v) = v := by
  apply BitVec.eq_of_toNat_eq
  have := v.isLt
  simp only [neg16_toNat]
  omega

theorem be16_hi8_lo8 (v : U16) : be16 (hi8 v) (lo8 v) = v := by
  apply BitVec.eq_of_toNat_eq
  have := v.isLt
  simp only [be16_toNat, hi8, lo8, BitVec.toNat_ofNat]
  omega

/-- Settles O12, by `rxChecksum_eq`. -/
theorem rxChecksumNegates : Obligations.RxChecksumNegates :=
  ⟨fun hi lo => ⟨rxChecksum_eq hi lo, by rw [rxChecksum_eq, neg16_toNat, be16_toNat]⟩, by decide⟩

/-- Settles O13: the receiver joins the bytes of `neg16 c` and negates it again; the table is evaluated. -/
theorem negationIsItsOwnInverse : Obligations.NegationIsItsOwnInverse := by
  refine ⟨neg16_neg16, fun c => ⟨txChecksum_eq c, ?_, ?_⟩, by decide⟩
  · rw [txChecksum_eq, be16_hi8_lo8]
  · rw [txChecksum_eq, rxChecksum_eq, be16_hi8_lo8, neg16_neg16]

/-! ## Order and range -/

/-- Settles O14: a reordering and a moved count keep the payload's sum, and an appended list adds its own. -/
theorem checksumIgnoresOrder : Obligations.ChecksumIgnoresOrder := by
  refine ⟨fun size p q h => calcChecksum_congr size (sumBytes_perm h), fun size p q => ?_,
    fun size x y d p q r hx hy => calcChecksum_congr size ?_⟩
  · rw [calcChecksum_toNat, calcChecksum_toNat, sumBytes_append, Nat.mod_add_mod, Nat.add_assoc]
  · have hadd : (x + d).toNat = x.toNat + d.toNat := BitVec.toNat_add_of_lt hx
    have hsub : (y - d).toNat = y.toNat - d.toNat := BitVec.toNat_sub_of_le hy
    simp only [sumBytes_append, sumBytes, hadd, hsub]
    omega

/-- Settles O15: a byte is at most 255. -/
theorem checksumRange : Obligations.ChecksumRange := by
  refine ⟨fun size p => ?_, fun size p hp => ?_, ?_, fun p hp => ?_⟩
  · have := size.isLt
    have := sumBytes_le p
    omega
  · have := size.isLt
    have := sumBytes_le p
    rw [calcChecksum_toNat, Nat.mod_eq_of_lt (by omega)]
  · rw [calcChecksum, sumBytes_replicate]
    rfl
  · have := sumBytes_le p
    omega

/-! ## The command -/

theorem execCsum_of_payload {s : State} {payload : List Byte} (hlen : s.ilen ≤ Config.maxMsg)
    (hp : s.operandBytes = some payload) : execCsum s = .next (s.setCsum (calcChecksum s.size payload)).succeed := by
  simp [execCsum, s.badLength_false_iff.2 hlen, hp]

theorem execCsum_of_tooLong {s : State} (hlen : Config.maxMsg < s.ilen) :
    execCsum s = .next (s.raise .badCommand [.c]) := by
  rw [execCsum, if_pos (s.badLength_iff.2 hlen)]

/-- With `ILEN` = 0 no byte is read. -/
theorem State.operandBytes_of_empty {s : State} (h : s.ilen = 0) : s.operandBytes = some [] := by
  rw [State.operandBytes, h, Mem.readList]

/-- Settles O10: CSUM's two outcomes, with what each leaves in the registers. -/
theorem csumCommand : Obligations.CsumCommand := by
  refine ⟨rfl, fun s => ⟨fun payload hlen hp => ?_, fun h0 => ?_, fun hlen => ?_⟩⟩
  · exact ⟨_, execCsum_of_payload hlen hp, calcChecksum_toNat _ _, rfl, rfl, rfl,
      (s.setCsum_keepsAllBut _).trans (State.succeed_keepsAllBut _ _)⟩
  · have hlen : s.ilen ≤ Config.maxMsg := by omega
    exact ⟨_, execCsum_of_payload hlen (State.operandBytes_of_empty h0), calcChecksum_nil s.size⟩
  · exact ⟨_, execCsum_of_tooLong hlen, by simp, State.raise_err _ _ _, State.raise_errb _ _ _,
      s.raise_keepsAllBut _ _⟩

/-! ## The checksum test of a message -/

theorem checksumOk_iff (m : List Byte) : checksumOk m = true ↔
    ((byteAt m 0).toNat + sumBytes (payloadOf m) + 256 * (checksumHi m).toNat + (checksumLo m).toNat) % 65536 = 0 := by
  have := (checksumHi m).isLt
  have := (checksumLo m).isLt
  rw [checksumOk, beq_iff_eq, ← BitVec.toNat_inj, rxChecksum_eq, calcChecksum_toNat, neg16_toNat, be16_toNat]
  omega

/-- Settles O16, by `checksumOk_iff`. -/
theorem checksumOkIffSumVanishes : Obligations.ChecksumOkIffSumVanishes := fun m _ => checksumOk_iff m

/-- A message of at least three bytes is its length byte, its payload and its two checksum bytes (42_decoder R151). -/
theorem message_eq_parts {m : List Byte} (hm : 3 ≤ m.length) :
    m = byteAt m 0 :: payloadOf m ++ [checksumHi m, checksumLo m] := by
  match m with
  | l :: rest =>
    obtain ⟨k, hk⟩ : ∃ k, rest.length = k + 2 := ⟨rest.length - 2, by rw [List.length_cons] at hm; omega⟩
    have hlast : rest.drop k = [rest[k], rest[k + 1]] := by
      rw [List.drop_eq_getElem_cons (by omega), List.drop_eq_getElem_cons (by omega),
        List.drop_eq_nil_of_le (by omega)]
    have hhi : checksumHi (l :: rest) = rest[k] := by simp [checksumHi, byteAt, hk]
    have hlo : checksumLo (l :: rest) = rest[k + 1] := by simp [checksumLo, byteAt, hk]
    have hpayload : payloadOf (l :: rest) = rest.take k := by simp [payloadOf, slice, hk]
    rw [hhi, hlo, hpayload, ← hlast, List.cons_append, List.take_append_drop]
    rfl

/-- The high checksum byte counts 256 times, every other byte of a message once. -/
theorem checksumOk_iff_sumBytes {m : List Byte} (hm : 3 ≤ m.length) :
    checksumOk m = true ↔ (sumBytes m + 255 * (checksumHi m).toNat) % 65536 = 0 := by
  have hsum := congrArg sumBytes (message_eq_parts hm)
  simp only [List.cons_append, sumBytes, sumBytes_append] at hsum
  rw [checksumOk_iff, hsum]
  omega

theorem byteAt_set {l : List Byte} {i : Nat} (hi : i < l.length) (j : Nat) (b : Byte) :
    byteAt (l.set i b) j = if i = j then b else byteAt l j := by
  simp only [byteAt, List.getD_eq_getElem?_getD, List.getElem?_set, hi, if_true]
  split_ifs <;> rfl

/-- A change of one byte is below 65536 in the weighted sum, hence seen (40_checksum R109). -/
theorem checksumOk_set_eq_false {m : List Byte} (hm : 3 ≤ m.length) (hok : checksumOk m = true) {i : Nat}
    (hi : i < m.length) {b : Byte} (hb : b ≠ byteAt m i) : checksumOk (m.set i b) = false := by
  rw [checksumOk_iff_sumBytes hm] at hok
  rw [← Bool.not_eq_true, checksumOk_iff_sumBytes (by rwa [List.length_set])]
  have hne : b.toNat ≠ (byteAt m i).toNat := fun h => hb (BitVec.eq_of_toNat_eq h)
  have hset := sumBytes_set hi b
  have := b.isLt
  have := (byteAt m i).isLt
  simp only [checksumHi, List.length_set, byteAt_set hi] at hok ⊢
  split_ifs with h
  · subst h
    omega
  · omega

/-! ## A flipped bit -/

/-- The first two tests of `decode` (42_decoder R158). -/
theorem decodeMessage_invalidChecksum {m : List Byte} (hm : 4 ≤ m.length) (hbad : checksumOk m = false) :
    decodeMessage m = .error .invalidChecksum := by
  rw [checksumOk, beq_eq_false_iff_ne] at hbad
  rw [decodeMessage, if_neg (by omega), if_pos hbad]

theorem checksumOk_of_decodeMessage {m : List Byte} {frame : Frame} (h : decodeMessage m = .ok frame) :
    4 ≤ m.length ∧ checksumOk m = true := by
  have hm : 4 ≤ m.length := by
    by_contra hshort
    rw [decodeMessage, if_pos (by omega)] at h
    cases h
  refine ⟨hm, ?_⟩
  by_contra hbad
  rw [decodeMessage_invalidChecksum hm (by simpa using hbad)] at h
  cases h

theorem flipBit_ne (b : Byte) {k : Nat} (hk : k < 8) : b ^^^ BitVec.ofNat 8 (2 ^ k) ≠ b := by
  have hbit : BitVec.ofNat 8 (2 ^ k) ≠ 0#8 := by
    revert k
    decide
  exact fun h => hbit ((BitVec.xor_right_inj b).1 (h.trans BitVec.xor_zero.symm))

/-- Settles O29: a flipped bit changes one byte, so the checksum test fails, the second test of `decode`; the two messages
that differ in two bits are evaluated. -/
theorem singleBitFlipIsCaught : Obligations.SingleBitFlipIsCaught := by
  refine ⟨fun m frame h i hi k hk => ?_, ⟨_, rfl⟩, ⟨_, rfl⟩⟩
  obtain ⟨hm, hok⟩ := checksumOk_of_decodeMessage h
  exact decodeMessage_invalidChecksum (by rwa [List.length_set])
    (checksumOk_set_eq_false (by omega) hok hi (flipBit_ne _ hk))

end Sys2Proof.Machine

/-!
PROOFS. The statements of 41_enum_tables. What each table answers is said once (`opcodeOfByte_eq`, `sourceOfByte_eq`,
`byteOfStatus_statusOfByte`); a table command then ends in `State.setResult` or in `State.raise` of what its table says. A
frame row of a decodable message shows its frame (`exec_frameRow_shows`), and the row's own field is read off that frame.
-/

namespace Sys2Proof.Machine

/-! ## OpCode -/

/-- A table searched by value is tried entry by entry (20_memory R53). -/
theorem lookup_cons_byte {α : Type} (a b : Byte) (v : α) (table : List (Byte × α)) :
    List.lookup b ((a, v) :: table) = if b = a then some v else table.lookup b := by
  rw [List.lookup_cons]
  by_cases h : b = a
  · rw [if_pos h, beq_iff_eq.2 h]
  · rw [if_neg h, beq_eq_false_iff_ne.2 h]

/-- OPROM searched by value (10_state R36, 41_enum_tables R121). -/
theorem opcodeOfByte_eq (b : Byte) : opcodeOfByte b =
    if b = 0xd0#8 then .ack else if b = 0xd1#8 then .nack else if b = 0xf3#8 then .decodeData else .other b := by
  simp only [opcodeOfByte, opRom, lookup_cons_byte]
  split_ifs <;> rfl

theorem kindOfOpcode_opcodeOfByte (b : Byte) : kindOfOpcode (opcodeOfByte b) =
    if b = 0xd0#8 then 0#2 else if b = 0xd1#8 then 1#2 else if b = 0xf3#8 then 2#2 else 3#2 := by
  rw [opcodeOfByte_eq]
  split_ifs <;> rfl

theorem kindOfOpcode_of_unnamed {b : Byte} (h : namedOpcode b = false) : kindOfOpcode (opcodeOfByte b) = 3#2 := by
  simp only [namedOpcode, Bool.or_eq_false_iff, beq_eq_false_iff_ne] at h
  obtain ⟨⟨hack, hnack⟩, hdata⟩ := h
  rw [kindOfOpcode_opcodeOfByte, if_neg hack, if_neg hnack, if_neg hdata]

theorem byteOfOpcode_opcodeOfKind (k : BitVec 2) (b : Byte) : byteOfOpcode (opcodeOfKind k b) =
    if k = 0#2 then 0xd0#8 else if k = 1#2 then 0xd1#8 else if k = 2#2 then 0xf3#8 else b := by
  unfold opcodeOfKind
  split_ifs <;> rfl

theorem byteOfOpcode_opcodeOfByte (b : Byte) : byteOfOpcode (opcodeOfByte b) = b := by
  rw [opcodeOfByte_eq]
  split_ifs with hack hnack hdata
  · exact hack.symm
  · exact hnack.symm
  · exact hdata.symm
  · rfl

/-- Settles O23: a named opcode comes back by evaluation, and `Other(b)` as what OPROM has for `b`. -/
theorem opcodeRoundTrip : Obligations.OpcodeRoundTrip := by
  refine ⟨byteOfOpcode_opcodeOfByte, fun o => ?_⟩
  cases o with
  | ack | nack | decodeData => rfl
  | other b => simp only [byteOfOpcode, opcodeOfByte_eq, OpCode.other.injEq]

/-- Settles O17: OPDEC's result is the byte and the kind `kindOfOpcode_opcodeOfByte` gives. -/
theorem opdecCommand : Obligations.OpdecCommand :=
  ⟨rfl, fun s => ⟨_, rfl, kindOfOpcode_opcodeOfByte s.arg, rfl, rfl, rfl, rfl, s.setResult_keepsAllBut _ _⟩⟩

/-- Settles O18: OPENC's result is the byte `byteOfOpcode_opcodeOfKind` gives. -/
theorem opencCommand : Obligations.OpencCommand := by
  refine ⟨rfl, fun s => ?_, fun s hkind harg => ⟨_, _, rfl, rfl, ?_⟩⟩
  · exact ⟨_, rfl, byteOfOpcode_opcodeOfKind s.argk s.arg, rfl, rfl, rfl, rfl, s.setResult_keepsAllBut _ _⟩
  · have hres : byteOfOpcode s.opcodeOperand = 0xd0#8 := by
      rw [State.opcodeOperand, hkind, harg]
      rfl
    rw [State.setResult_resk, State.setResult_res, hres]
    rfl

/-! ## Source -/

/-- SRCROM searched by value (10_state R36, 41_enum_tables R124). -/
theorem sourceOfByte_eq (b : Byte) : sourceOfByte b =
    if b = 0x00#8 then some .scanner else if b = 0x04#8 then some .host else none := by
  simp only [sourceOfByte, srcRom, lookup_cons_byte, List.lookup_nil]

theorem sourceOfByte_of_defined {b : Byte} (h : b = 0x00#8 ∨ b = 0x04#8) :
    sourceOfByte b = some (if b = 0x00#8 then .scanner else .host) := by
  obtain rfl | rfl := h <;> rfl

theorem sourceOfByte_of_reserved {b : Byte} (h : b ≠ 0x00#8 ∧ b ≠ 0x04#8) : sourceOfByte b = none := by
  rw [sourceOfByte_eq, if_neg h.1, if_neg h.2]

theorem sourceOfKind_of_lt {k : BitVec 2} (h : k.toNat < 2) :
    sourceOfKind k = some (if k = 0#2 then .scanner else .host) := by
  obtain rfl | rfl : k = 0#2 ∨ k = 1#2 := by bv_omega
  · rfl
  · rfl

theorem sourceOfKind_of_ge {k : BitVec 2} (h : 2 ≤ k.toNat) : sourceOfKind k = none := by
  obtain rfl | rfl : k = 2#2 ∨ k = 3#2 := by bv_omega
  · rfl
  · rfl

/-- Settles O24: SRCROM has one entry for each source. -/
theorem sourceRoundTrip : Obligations.SourceRoundTrip := by
  refine ⟨fun s => ?_, fun b s h => ?_⟩
  · cases s <;> rfl
  · rw [sourceOfByte_eq] at h
    split_ifs at h with hscanner hhost <;> cases h
    · exact hscanner.symm
    · exact hhost.symm

theorem execSrcdec_of_some {s : State} {source : Source} (h : sourceOfByte s.arg = some source) :
    execSrcdec s = .next (s.setResult s.arg (kindOfSource source)) := by
  rw [execSrcdec, h]

theorem execSrcdec_of_none {s : State} (h : sourceOfByte s.arg = none) :
    execSrcdec s = .next (s.raise (.invalidSource s.arg) [.r]) := by
  rw [execSrcdec, h]

theorem execSrcenc_of_some {s : State} {source : Source} (h : s.sourceOperand = some source) :
    execSrcenc s = .next (s.setResult (byteOfSource source) s.argk) := by
  rw [execSrcenc, h]

theorem execSrcenc_of_none {s : State} (h : s.sourceOperand = none) :
    execSrcenc s = .next (s.raise .badCommand [.r]) := by
  rw [execSrcenc, h]

/-- Settles O19: SRCDEC succeeds with the source SRCROM has for `ARG`, and fails where it has none. -/
theorem srcdecCommand : Obligations.SrcdecCommand := by
  refine ⟨rfl, fun s => ⟨fun h => ?_, fun h => ?_⟩⟩
  · exact ⟨_, execSrcdec_of_some (sourceOfByte_of_defined h), apply_ite kindOfSource _ _ _, rfl, rfl, rfl, rfl,
      s.setResult_keepsAllBut _ _⟩
  · exact ⟨_, execSrcdec_of_none (sourceOfByte_of_reserved h), by simp, State.raise_err _ _ _,
      State.raise_errb _ _ _, s.raise_keepsAllBut _ _⟩

/-- Settles O20: SRCENC succeeds with the byte of the source `ARGK` names, and fails where it names none. -/
theorem srcencCommand : Obligations.SrcencCommand := by
  refine ⟨rfl, fun s => ⟨fun h => ?_, fun h => ?_⟩⟩
  · exact ⟨_, execSrcenc_of_some (sourceOfKind_of_lt h), apply_ite byteOfSource _ _ _, rfl, rfl, rfl, rfl,
      s.setResult_keepsAllBut _ _⟩
  · exact ⟨_, execSrcenc_of_none (sourceOfKind_of_ge h), by simp, State.raise_err _ _ _, State.raise_errb _ _ _,
      s.raise_keepsAllBut _ _⟩

/-! ## Status -/

theorem statusOfByte_byteOfStatus (f : Status) : statusOfByte (byteOfStatus f) = f := by
  obtain ⟨retransmit, continuation, changeType⟩ := f
  revert retransmit continuation changeType
  decide

/-- Each flag's part of the byte is the AND with the flag's mask, and the three masks make up 0x0B. -/
theorem byteOfStatus_statusOfByte (b : Byte) : byteOfStatus (statusOfByte b) = maskStatus b := by
  calc byteOfStatus (statusOfByte b)
      = b &&& BitVec.twoPow 8 0 ||| b &&& BitVec.twoPow 8 1 ||| b &&& BitVec.twoPow 8 3 := by
        simp only [BitVec.and_twoPow]
        rfl
    _ = b &&& (BitVec.twoPow 8 0 ||| BitVec.twoPow 8 1 ||| BitVec.twoPow 8 3) := by
        rw [BitVec.and_or_distrib_left, BitVec.and_or_distrib_left]
    _ = maskStatus b := rfl

theorem statusOfByte_maskStatus (b : Byte) : statusOfByte (maskStatus b) = statusOfByte b := by
  rw [← byteOfStatus_statusOfByte, statusOfByte_byteOfStatus]

/-- Settles O25: the byte of a flag set is a masked byte, and a masked byte has no reserved bit. -/
theorem statusTruncation : Obligations.StatusTruncation := by
  refine ⟨statusOfByte_byteOfStatus, byteOfStatus_statusOfByte, fun b hreserved heq => hreserved ?_,
    statusOfByte_maskStatus⟩
  rw [byteOfStatus_statusOfByte] at heq
  rw [← heq, maskStatus_reserved]

/-- Settles O21: STDEC's result is `maskStatus ARG`. -/
theorem stdecCommand : Obligations.StdecCommand :=
  ⟨rfl, fun s => ⟨_, rfl, rfl, rfl, rfl, rfl, rfl, s.setResult_keepsAllBut _ _⟩⟩

/-! ## ContentType -/

theorem execCtdec_of_mem {s : State} (h : Config.ctSet s.arg = true) : execCtdec s = .next (s.setResult s.arg 1#2) := by
  rw [execCtdec, contentTypeOfByte, dif_pos (show ctRom s.arg = true from h)]

theorem execCtdec_of_not_mem {s : State} (h : Config.ctSet s.arg ≠ true) :
    execCtdec s = .next (s.raise (.unrecognizedContentType s.arg) [.r]) := by
  rw [execCtdec, contentTypeOfByte, dif_neg (show ¬ ctRom s.arg = true from h)]

/-- Settles O22: CTDEC looks `ARG` up in `CT_SET`, which lies within the bounds of 41_enum_tables R130. -/
theorem ctdecCommand : Obligations.CtdecCommand := by
  refine ⟨rfl, fun s => ?_, fun b hb => ?_⟩
  · by_cases h : Config.ctSet s.arg = true
    · refine ⟨_, execCtdec_of_mem h, s.setResult_keepsAllBut _ _, ?_⟩
      rw [if_pos h]
      exact ⟨rfl, rfl, rfl, rfl, rfl⟩
    · refine ⟨_, execCtdec_of_not_mem h, s.raise_keepsAllBut _ _, ?_⟩
      rw [if_neg h]
      exact ⟨by simp, State.raise_err _ _ _, State.raise_errb _ _ _⟩
  · by_contra hmem
    obtain ⟨hlow, hhigh, h33, h41⟩ := Config.ctSet_bounds b (by simpa using hmem)
    obtain rfl | rfl | rfl | hb := hb
    · exact absurd hlow (by decide)
    · exact h33 rfl
    · exact h41 rfl
    · omega

/-! ## The frame rows -/

/-- DECODE on a message that is decodable (42_decoder R156, R157). -/
theorem State.decodeOperand_showsFrame (s : State) {m : List Byte} (h : Decodable m) :
    (s.decodeOperand m).ShowsFrame m := by
  obtain ⟨h6, -, hok, hsource⟩ := h
  have hsum : calcChecksum (byteAt m 0) (payloadOf m) = rxChecksum (checksumHi m) (checksumLo m) := by
    simpa [checksumOk] using hok
  have hframe : s.decodeOperand m = (s.setCsum (calcChecksum (byteAt m 0) (payloadOf m))).setFrame (byteAt m 0)
      (byteAt m 1) (sourceBit (if byteAt m 2 = 0x00#8 then .scanner else .host)) (byteAt m 3) (m.length - 6) := by
    simp [State.decodeOperand, hsum, Nat.not_lt.2 h6, sourceOfByte_of_defined hsource]
  rw [hframe]
  exact ⟨rfl, rfl, rfl, rfl, rfl, rfl, apply_ite sourceBit _ _ _, rfl, rfl, rfl, rfl, rfl⟩

theorem State.runDecode_of_operand {s : State} {m : List Byte} (hm : s.operandBytes = some m) (h4 : 4 ≤ m.length)
    (hfits : m.length ≤ Config.maxMsg) : s.runDecode = .next (s.decodeOperand m) := by
  rw [State.length_of_operandBytes hm] at h4 hfits
  rw [State.runDecode, s.badLength_false_iff.2 hfits, if_neg (by simp), if_neg (by omega), hm]

/-- A frame row of a decodable message completes and shows its frame, hence all that follows from the frame. -/
theorem exec_frameRow_shows (s : State) {i : Instr} {P : State → Prop} (hi : formatOf i ≠ .command)
    (h : Decodable (encode i)) (hP : ∀ t : State, t.ShowsFrame (encode i) → P t) :
    ∃ t, exec i s = .next t ∧ t.ShowsFrame (encode i) ∧ P t := by
  have hshows := (s.loadMessage (encode i)).decodeOperand_showsFrame h
  obtain ⟨h6, hfits, -⟩ := h
  obtain ⟨-, hoperand⟩ := s.loadMessage_operand (encode i) hfits
  refine ⟨_, ?_, hshows, hP _ hshows⟩
  rw [exec_frameRow hi, State.receive_of_fits hfits]
  exact State.runDecode_of_operand hoperand (by omega) hfits

/-- `F_OPKIND` and `F_OPBYTE` of a shown frame. -/
theorem State.ShowsFrame.opcode {t : State} {m : List Byte} (h : t.ShowsFrame m) :
    t.fOpKind = kindOfOpcode (opcodeOfByte (byteAt m 1)) ∧ t.fOpByte = byteAt m 1 := by
  obtain ⟨-, -, -, -, hkind, hbyte, -⟩ := h
  exact ⟨hkind, hbyte⟩

theorem State.ShowsFrame.source {t : State} {m : List Byte} (h : t.ShowsFrame m) :
    t.fSource = if byteAt m 2 = 0x00#8 then 0#1 else 1#1 := by
  obtain ⟨-, -, -, -, -, -, hsource, -⟩ := h
  exact hsource

/-- The flags of a shown frame are those of its status byte, unmasked. -/
theorem State.ShowsFrame.statusFlags {t : State} {m : List Byte} (h : t.ShowsFrame m) :
    t.statusFlags = statusOfByte (byteAt m 3) := by
  obtain ⟨-, -, -, -, -, -, -, hstatus, -⟩ := h
  rw [State.statusFlags, hstatus]
  exact statusOfByte_maskStatus _

/-- Settles O38: the frame of each row shows the row's opcode byte and its kind. -/
theorem opcodeRowsComplete : Obligations.OpcodeRowsComplete := by
  intro s l o src st rest
  refine ⟨fun h => ?_, fun h => ?_, fun h => ?_, fun h hother => ?_⟩
  · exact exec_frameRow_shows s (i := .ack l src st rest) nofun h fun _ ht => ht.opcode
  · exact exec_frameRow_shows s (i := .nack l src st rest) nofun h fun _ ht => ht.opcode
  · exact exec_frameRow_shows s (i := .decodeData l src st rest) nofun h fun _ ht => ht.opcode
  · refine exec_frameRow_shows s (i := .other l o src st rest) nofun h fun _ ht => ?_
    obtain ⟨hkind, hbyte⟩ := ht.opcode
    exact ⟨hkind.trans (kindOfOpcode_of_unnamed hother), hbyte⟩

/-- Settles O39: the frame of each row shows the row's source. -/
theorem sourceRowsComplete : Obligations.SourceRowsComplete := by
  intro s l o st rest
  refine ⟨fun h => ?_, fun h => ?_⟩
  · exact exec_frameRow_shows s (i := .srcScanner l o st rest) nofun h fun _ ht => ht.source
  · exact exec_frameRow_shows s (i := .srcHost l o st rest) nofun h fun _ ht => ht.source

/-- Settles O40: a flag of the frame is its bit of the status byte. -/
theorem statusRowsComplete : Obligations.StatusRowsComplete := by
  intro s l o src st rest h
  refine ⟨fun hbit => ?_, fun hbit => ?_, fun hbit => ?_⟩
  · exact exec_frameRow_shows s (i := .stRetransmit l o src st rest) nofun h fun _ ht =>
      (congrArg Status.retransmit ht.statusFlags).trans hbit
  · exact exec_frameRow_shows s (i := .stContinuation l o src st rest) nofun h fun _ ht =>
      (congrArg Status.continuation ht.statusFlags).trans hbit
  · exact exec_frameRow_shows s (i := .stChangeType l o src st rest) nofun h fun _ ht =>
      (congrArg Status.changeType ht.statusFlags).trans hbit

end Sys2Proof.Machine

/-!
PROOFS. The statements of 42_decoder. What `decode` answers is said once for each outcome of its tests (42_decoder R158);
DECODE of a message it reads leaves what `decode` answers for it (`State.decodeOperand_refines`), so its registers are read
off that answer.
-/

namespace Sys2Proof.Machine

/-! ## The parts of a message -/

theorem slice_length {l : List Byte} {i j : Nat} (hj : j ≤ l.length) : (slice l i j).length = j - i := by
  rw [slice, List.length_take, List.length_drop]
  omega

/-- The first byte of a slice is the byte at its first offset. -/
theorem slice_eq_byteAt_cons {l : List Byte} {i j : Nat} (hi : i < j) (hj : j ≤ l.length) :
    slice l i j = byteAt l i :: slice l (i + 1) j := by
  have hbyte : byteAt l i = l[i] := by simp [byteAt, List.getElem?_eq_getElem (show i < l.length by omega)]
  rw [slice, List.drop_eq_getElem_cons (by omega), show j - i = j - (i + 1) + 1 by omega, List.take_succ_cons, hbyte,
    slice]

/-- The payload of a message of at least six bytes: opcode, source and status byte, then the data (42_decoder R154). -/
theorem payloadOf_eq_fields {m : List Byte} (h6 : 6 ≤ m.length) :
    payloadOf m = byteAt m 1 :: byteAt m 2 :: byteAt m 3 :: slice m 4 (m.length - 2) := by
  rw [payloadOf, slice_eq_byteAt_cons (by omega) (by omega), slice_eq_byteAt_cons (by omega) (by omega),
    slice_eq_byteAt_cons (by omega) (by omega)]

/-- The bytes of a buffer from `i` to `j` are the slice of the list that is read. -/
theorem Mem.readList_slice {m : Mem} {n i j : Nat} {l : List Byte} (h : m.readList 0 n = some l) (hij : i ≤ j)
    (hj : j ≤ n) : m.readList i (j - i) = some (slice l i j) := by
  rw [Mem.readList_eq_some] at h ⊢
  obtain ⟨hlength, hread⟩ := h
  refine ⟨slice_length (by omega), fun k hk => ?_⟩
  rw [slice, List.getElem?_take_of_lt hk, List.getElem?_drop, ← hread (i + k) (by omega), Nat.zero_add]

theorem sourceOfByte_eq_some_iff {b : Byte} {source : Source} :
    sourceOfByte b = some source ↔ b = byteOfSource source := by
  obtain ⟨hbyte, hsource⟩ := sourceRoundTrip
  exact ⟨fun h => (hsource b source h).symm, fun h => h ▸ hbyte source⟩

/-! ## What `decode` answers -/

theorem decodeMessage_of_noChecksumField {m : List Byte} (h4 : m.length < 4) :
    decodeMessage m = .error .invalidMessageLength := by
  rw [decodeMessage, if_pos h4]

/-- With a matching checksum the payload alone decides: this payload is too short for the three header fields. -/
theorem decodeMessage_of_noHeader {m : List Byte} (h4 : 4 ≤ m.length) (h6 : m.length < 6)
    (hok : checksumOk m = true) : decodeMessage m = .error .invalidMessageLength := by
  have hpayload : (payloadOf m).length < 3 := by
    rw [payloadOf, slice_length (by omega)]
    omega
  rw [checksumOk, beq_iff_eq] at hok
  rw [decodeMessage, if_neg (by omega), if_neg (not_not.2 hok)]
  match payloadOf m, hpayload with
  | [], _ | [_], _ | [_, _], _ => rfl

theorem decodeMessage_of_reservedSource {m : List Byte} (h6 : 6 ≤ m.length) (hok : checksumOk m = true)
    (hsource : sourceOfByte (byteAt m 2) = none) : decodeMessage m = .error (.invalidSource (byteAt m 2)) := by
  rw [checksumOk, beq_iff_eq] at hok
  rw [decodeMessage, if_neg (by omega), if_neg (not_not.2 hok), payloadOf_eq_fields h6]
  simp only [hsource]

theorem decodeMessage_of_source {m : List Byte} (h6 : 6 ≤ m.length) (hok : checksumOk m = true) {source : Source}
    (hsource : sourceOfByte (byteAt m 2) = some source) :
    decodeMessage m = .ok ⟨byteAt m 0, opcodeOfByte (byteAt m 1), source, statusOfByte (byteAt m 3),
      slice m 4 (m.length - 2)⟩ := by
  rw [checksumOk, beq_iff_eq] at hok
  rw [decodeMessage, if_neg (by omega), if_neg (not_not.2 hok), payloadOf_eq_fields h6]
  simp only [hsource]

/-- Settles O26: each clause is one outcome of the tests of `decode`. -/
theorem decodeFailureOrder : Obligations.DecodeFailureOrder := fun _ =>
  ⟨decodeMessage_of_noChecksumField, decodeMessage_invalidChecksum, decodeMessage_of_noHeader,
    fun h6 hok h00 h04 => decodeMessage_of_reservedSource h6 hok (sourceOfByte_of_reserved ⟨h00, h04⟩),
    fun h6 hok hsource => ⟨_, decodeMessage_of_source h6 hok (sourceOfByte_of_defined hsource)⟩⟩

/-- Settles O27: the length byte is returned and no test reads it. -/
theorem decodeReturnsTheFields : Obligations.DecodeReturnsTheFields := by
  intro m h6 hok source hsource
  refine ⟨decodeMessage_of_source h6 hok (sourceOfByte_eq_some_iff.2 hsource), ?_⟩
  rw [slice_length (by omega)]
  omega

/-- Settles O28, by the three ways a message of fewer than six bytes fails. -/
theorem shortMessagesNeverDecode : Obligations.ShortMessagesNeverDecode := by
  intro m h6
  by_cases h4 : m.length < 4
  · rw [decodeMessage_of_noChecksumField h4, if_pos (.inl h4)]
  · cases hok : checksumOk m with
    | true => rw [decodeMessage_of_noHeader (by omega) h6 hok, if_pos (.inr rfl)]
    | false => rw [decodeMessage_invalidChecksum (by omega) hok, if_neg (by simp [h4])]

/-- Settles O30: the two messages are evaluated. -/
theorem lengthByteIsNotChecked : Obligations.LengthByteIsNotChecked := ⟨rfl, rfl⟩

/-! ## DECODE -/

theorem State.runDecode_of_tooLong {s : State} (hlen : Config.maxMsg < s.ilen) :
    s.runDecode = .next (s.raise .badCommand [.f, .c]) := by
  rw [State.runDecode, if_pos (s.badLength_iff.2 hlen)]

theorem State.runDecode_of_noChecksumField {s : State} (h4 : s.ilen < 4) :
    s.runDecode = .next (s.raise .invalidMessageLength [.f, .c]) := by
  have hfits : s.ilen ≤ Config.maxMsg := by have := Config.maxMsg_ge; omega
  rw [State.runDecode, s.badLength_false_iff.2 hfits, if_neg (by simp), if_pos h4]

/-- DECODE is `decode` on its message: the same error, or the frame of the same fields (42_decoder R156). -/
theorem State.decodeOperand_refines (s : State) {m : List Byte} (h4 : 4 ≤ m.length) :
    (∃ e, decodeMessage m = .error e ∧
      s.decodeOperand m = (s.setCsum (calcChecksum (byteAt m 0) (payloadOf m))).raise e.kind [.f]) ∨
    (6 ≤ m.length ∧ checksumOk m = true ∧ ∃ source, byteAt m 2 = byteOfSource source ∧
      decodeMessage m = .ok ⟨byteAt m 0, opcodeOfByte (byteAt m 1), source, statusOfByte (byteAt m 3),
        slice m 4 (m.length - 2)⟩ ∧
      s.decodeOperand m = (s.setCsum (calcChecksum (byteAt m 0) (payloadOf m))).setFrame (byteAt m 0) (byteAt m 1)
        (sourceBit source) (byteAt m 3) (m.length - 6)) := by
  rcases s.decodeOperand_cases m with
    ⟨hbad, h⟩ | ⟨hok, h6, h⟩ | ⟨hok, h6, hsource, h⟩ | ⟨hok, h6, source, hsource, h⟩
  · exact .inl ⟨_, decodeMessage_invalidChecksum h4 hbad, h⟩
  · exact .inl ⟨_, decodeMessage_of_noHeader h4 h6 hok, h⟩
  · exact .inl ⟨_, decodeMessage_of_reservedSource h6 hok hsource, h⟩
  · exact .inr ⟨h6, hok, source, sourceOfByte_eq_some_iff.1 hsource, decodeMessage_of_source h6 hok hsource, h⟩

/-- Whether DECODE ends in a frame or in an error, `CSUM` holds the expected checksum (42_decoder R156). -/
theorem State.decodeOperand_checksum (s : State) (m : List Byte) :
    (s.decodeOperand m).cValid = true ∧ (s.decodeOperand m).csum = calcChecksum (byteAt m 0) (payloadOf m) := by
  rcases State.decodeOperand_uniform m with ⟨e, he⟩ | ⟨-, source, hf⟩
  · rw [he, State.raise_csum _ _ _ (by simp)]
    simp
  · rw [hf]
    exact ⟨rfl, rfl⟩

/-- Settles O31: the two tests of `ILEN`, and beyond them `State.decodeOperand_refines`. (`decodeCommand` is the decoder of
command codes.) -/
theorem decodeCommandResult : Obligations.DecodeCommand := by
  refine ⟨rfl, fun s => ⟨fun hlen => ?_, fun h4 => ?_, fun m h4 hfits hoperand => ?_⟩⟩
  · exact ⟨_, State.runDecode_of_tooLong hlen, State.raise_err _ _ _, State.raise_errb _ _ _, by simp, by simp,
      s.raise_keepsAllBut _ _⟩
  · exact ⟨_, State.runDecode_of_noChecksumField h4, State.raise_err _ _ _, State.raise_errb _ _ _, by simp, by simp,
      s.raise_keepsAllBut _ _⟩
  · have hlength := State.length_of_operandBytes hoperand
    rw [← hlength] at h4 hfits
    obtain ⟨hvalid, hcsum⟩ := s.decodeOperand_checksum m
    refine ⟨_, State.runDecode_of_operand hoperand h4 hfits, hvalid, hcsum, s.decodeOperand_keepsAllBut m, ?_⟩
    rcases s.decodeOperand_refines h4 with ⟨e, he, hraise⟩ | ⟨h6, hok, source, hsource, hdecode, hframe⟩
    · rw [he, hraise]
      cases e <;> exact ⟨State.raise_err _ _ _, State.raise_errb _ _ _, by simp⟩
    · have hdecodable : Decodable m := ⟨h6, hfits, hok, by cases source <;> simp [hsource, byteOfSource]⟩
      have hshows := s.decodeOperand_showsFrame hdecodable
      have hdlen : m.length - 2 - 4 = m.length - 6 := by omega
      have hdata := Mem.readList_slice hoperand (show 4 ≤ m.length - 2 by omega) (by omega)
      rw [hdlen] at hdata
      rw [hdecode]
      refine ⟨hshows, ?_⟩
      rw [hframe]
      exact ⟨rfl, rfl, (byteOfOpcode_opcodeOfByte _).symm, rfl, (byteOfStatus_statusOfByte _).symm,
        ((slice_length (by omega)).trans hdlen).symm, hdata⟩

end Sys2Proof.Machine

/-!
PROOFS. The statements of 43_encoder. One equivalence says what `wrap` gives for some fields (`wrapFields_eq_some_iff`): the
message with these fields as payload, a right length byte and a checksum that verifies. The statements about layer F follow
from it and from what `decode` answers; those about WRAP from the form its OBUF has (`State.wrapOperand_output`).
-/

namespace Sys2Proof.Machine

/-! ## The parts of a message that is put together -/

theorem payloadOf_parts (l hi lo : Byte) (payload : List Byte) : payloadOf (l :: payload ++ [hi, lo]) = payload := by
  simp [payloadOf, slice]

theorem checksumHi_parts (l hi lo : Byte) (payload : List Byte) : checksumHi (l :: payload ++ [hi, lo]) = hi := by
  simp [checksumHi, byteAt]

theorem checksumLo_parts (l hi lo : Byte) (payload : List Byte) : checksumLo (l :: payload ++ [hi, lo]) = lo := by
  simp [checksumLo, byteAt]

theorem payloadOf_length (m : List Byte) : (payloadOf m).length = m.length - 3 := by
  rw [payloadOf, slice_length (by omega)]
  omega

/-- The header bytes and the data of a message are the bytes of its payload (42_decoder R154). -/
theorem header_of_payloadOf {m : List Byte} {x y z : Byte} {data : List Byte} (h : payloadOf m = x :: y :: z :: data) :
    6 ≤ m.length ∧ byteAt m 1 = x ∧ byteAt m 2 = y ∧ byteAt m 3 = z ∧ slice m 4 (m.length - 2) = data := by
  have hlength := payloadOf_length m
  rw [h] at hlength
  simp only [List.length_cons] at hlength
  have h6 : 6 ≤ m.length := by omega
  rw [payloadOf_eq_fields h6] at h
  simp only [List.cons.injEq] at h
  exact ⟨h6, h⟩

/-! ## The checksum bytes -/

theorem hi8_be16 (hi lo : Byte) : hi8 (be16 hi lo) = hi := by
  apply BitVec.eq_of_toNat_eq
  have := hi.isLt
  have := lo.isLt
  simp only [hi8, be16_toNat, BitVec.toNat_ofNat]
  omega

theorem lo8_be16 (hi lo : Byte) : lo8 (be16 hi lo) = lo := by
  apply BitVec.eq_of_toNat_eq
  have := lo.isLt
  simp only [lo8, be16_toNat, BitVec.toNat_ofNat]
  omega

/-- The checksum bytes that verify are those `tx_checksum` gives, and no others (40_checksum R103, R104). -/
theorem eq_rxChecksum_iff (c : U16) (hi lo : Byte) : c = rxChecksum hi lo ↔ txChecksum c = (hi, lo) := by
  rw [rxChecksum_eq, txChecksum_eq, Prod.mk.injEq]
  constructor
  · rintro rfl
    rw [neg16_neg16]
    exact ⟨hi8_be16 hi lo, lo8_be16 hi lo⟩
  · rintro ⟨rfl, rfl⟩
    rw [be16_hi8_lo8, neg16_neg16]

theorem checksumOk_iff_txChecksum (m : List Byte) :
    checksumOk m = true ↔ txChecksum (calcChecksum (byteAt m 0) (payloadOf m)) = (checksumHi m, checksumLo m) := by
  rw [checksumOk, beq_iff_eq, eq_rxChecksum_iff]

/-! ## What `wrap` gives -/

/-- Settles O34: the one test of `wrap`. -/
theorem wrapDomain : Obligations.WrapDomain := by
  intro fields
  rw [wrapFields]
  split_ifs with h <;> simp [h]

theorem exists_wrapFields {fields : List Byte} (hk : fields.length ≤ 253) : ∃ frame, wrapFields fields = some frame :=
  Option.ne_none_iff_exists'.1 fun h => by have := (wrapDomain fields).1 h; omega

theorem wrapFields_of_le {fields : List Byte} (hk : fields.length ≤ 253) {l hi lo : Byte}
    (hl : l = BitVec.ofNat 8 (fields.length + 1)) (hcheck : txChecksum (calcChecksum l fields) = (hi, lo)) :
    wrapFields fields = some (l :: fields ++ [hi, lo]) := by
  subst hl
  rw [wrapFields, if_neg (by omega)]
  simp only [hcheck]

/-- The length byte of `n` fields says `n + 1` within the domain (43_encoder R171). -/
theorem eq_lengthByte_iff {n : Nat} (hn : n ≤ 253) (b : Byte) : b = BitVec.ofNat 8 (n + 1) ↔ b.toNat = n + 1 := by
  rw [← BitVec.toNat_inj, BitVec.toNat_ofNat, Nat.mod_eq_of_lt (by omega)]

/-- `wrap` gives the message with the fields as payload, a right length byte and a checksum that verifies (43_encoder R170
to R172). -/
theorem wrapFields_eq_some_iff {fields m : List Byte} : wrapFields fields = some m ↔
    fields.length ≤ 253 ∧ m.length = fields.length + 3 ∧ (byteAt m 0).toNat = m.length - 2 ∧ checksumOk m = true
      ∧ payloadOf m = fields := by
  constructor
  · intro h
    have hk : fields.length ≤ 253 := by
      by_contra hk
      rw [(wrapDomain fields).2 (by omega)] at h
      cases h
    rw [wrapFields_of_le hk rfl rfl] at h
    obtain rfl := Option.some.inj h
    refine ⟨hk, by simp, ?_, ?_, payloadOf_parts _ _ _ _⟩
    · exact ((eq_lengthByte_iff hk _).1 rfl).trans (by simp)
    · rw [checksumOk_iff_txChecksum, payloadOf_parts, checksumHi_parts, checksumLo_parts]
      rfl
  · rintro ⟨hk, hlength, hbyte, hok, hfields⟩
    have hl := (eq_lengthByte_iff hk (byteAt m 0)).2 (by omega)
    rw [checksumOk_iff_txChecksum, hfields] at hok
    rw [message_eq_parts (m := m) (by omega), hfields]
    exact wrapFields_of_le hk hl hok

theorem byteAt_zero_of_wrapFields {fields frame : List Byte} (h : wrapFields fields = some frame) :
    byteAt frame 0 = BitVec.ofNat 8 (fields.length + 1) := by
  obtain ⟨hk, hlength, hbyte, -, -⟩ := wrapFields_eq_some_iff.1 h
  exact (eq_lengthByte_iff hk _).2 (by omega)

theorem payloadOf_of_wrapFields {fields frame : List Byte} (h : wrapFields fields = some frame) :
    payloadOf frame = fields := by
  obtain ⟨-, -, -, -, hfields⟩ := wrapFields_eq_some_iff.1 h
  exact hfields

theorem checksumOk_of_wrapFields {fields frame : List Byte} (h : wrapFields fields = some frame) :
    checksumOk frame = true := by
  obtain ⟨-, -, -, hok, -⟩ := wrapFields_eq_some_iff.1 h
  exact hok

/-- Settles O33, by `wrapFields_eq_some_iff`: that the checksum verifies is that the received one is the computed one. -/
theorem wrappedFrameVerifies : Obligations.WrappedFrameVerifies := by
  intro fields hk
  obtain ⟨frame, hframe⟩ := exists_wrapFields hk
  obtain ⟨-, hlength, hbyte, hok, hfields⟩ := wrapFields_eq_some_iff.1 hframe
  refine ⟨frame, hframe, hlength, hbyte, hok, hfields, ?_⟩
  rw [checksumOk, beq_iff_eq, hfields, byteAt_zero_of_wrapFields hframe] at hok
  exact hok.symm

/-! ## `decode` of what `wrap` gives -/

/-- Settles O32: the frame's payload holds the header bytes and the data, its source byte is a defined one, and its checksum
verifies. -/
theorem wrapThenDecode : Obligations.WrapThenDecode := by
  refine ⟨fun opcode status source data hdata => ?_, fun fields frame _ h => checksumOk_of_wrapFields h⟩
  obtain ⟨frame, hframe⟩ := exists_wrapFields (fields := opcode :: byteOfSource source :: status :: data)
    (by simp only [List.length_cons]; omega)
  refine ⟨frame, hframe, ?_, byteOfStatus_statusOfByte status⟩
  obtain ⟨h6, hopcode, hsource, hstatus, hslice⟩ := header_of_payloadOf (payloadOf_of_wrapFields hframe)
  rw [decodeMessage_of_source h6 (checksumOk_of_wrapFields hframe) (sourceOfByte_eq_some_iff.2 hsource), hopcode, hstatus,
    hslice, byteAt_zero_of_wrapFields hframe]
  rfl

/-- Settles O35: the fields are the payload of the frame, and `decode` tests of them what `wrap` does not. -/
theorem wrapValidatesNothing : Obligations.WrapValidatesNothing := by
  refine ⟨fun fields hk => ?_, fun fields frame hshort h => ?_, fun x y z data frame h00 h04 h => ?_⟩
  · obtain ⟨frame, hframe⟩ := exists_wrapFields hk
    obtain ⟨-, hlength, -, -, hfields⟩ := wrapFields_eq_some_iff.1 hframe
    refine ⟨frame, hframe, ?_⟩
    rwa [payloadOf, hlength] at hfields
  · obtain ⟨-, hlength, -, hok, -⟩ := wrapFields_eq_some_iff.1 h
    rw [shortMessagesNeverDecode frame (by omega), if_pos (.inr hok)]
  · obtain ⟨h6, -, hsource, -, -⟩ := header_of_payloadOf (payloadOf_of_wrapFields h)
    subst hsource
    exact decodeMessage_of_reservedSource h6 (checksumOk_of_wrapFields h) (sourceOfByte_of_reserved ⟨h00, h04⟩)

/-! ## Re-wrapping -/

/-- A message whose checksum verifies is the frame of its payload exactly when its length byte is right and the payload lies
in the domain of `wrap` (43_encoder R178). -/
theorem wrapFields_payloadOf_iff {m : List Byte} (hm : 3 ≤ m.length) (hok : checksumOk m = true) :
    wrapFields (payloadOf m) = some m ↔ (byteAt m 0).toNat = m.length - 2 ∧ m.length ≤ 256 := by
  rw [wrapFields_eq_some_iff, payloadOf_length]
  constructor
  · rintro ⟨hk, -, hbyte, -, -⟩
    exact ⟨hbyte, by omega⟩
  · rintro ⟨hbyte, hshort⟩
    exact ⟨by omega, by omega, hbyte, hok, rfl⟩

/-- Settles O36: the fields are the payload, a message that decodes has a checksum that verifies, and the example is
evaluated. -/
theorem rewrapOfDecodedMessage : Obligations.RewrapOfDecodedMessage := by
  refine ⟨fun f frame h => payloadOf_of_wrapFields h, fun f g frame hf hg => ?_, fun m frame h => ?_, rfl⟩
  · rw [← payloadOf_of_wrapFields hf, payloadOf_of_wrapFields hg]
  · obtain ⟨h4, hok⟩ := checksumOk_of_decodeMessage h
    exact wrapFields_payloadOf_iff (by omega) hok

/-! ## WRAP -/

theorem execWrap_of_tooLong {s : State} (hlen : Config.maxMsg < s.ilen) :
    execWrap s = .next (s.raise .badCommand [.o, .c]) := by
  rw [execWrap, if_pos (s.badLength_iff.2 hlen)]

theorem execWrap_of_tooManyFields {s : State} (hk : 253 < s.ilen) (hfits : s.ilen ≤ Config.maxMsg) :
    execWrap s = .next (s.raise .fieldsTooLong [.o, .c]) := by
  rw [execWrap, s.badLength_false_iff.2 hfits, if_neg (by simp), if_pos hk]

/-- WRAP writes no byte of OBUF past the frame (43_encoder R174). -/
theorem State.wrapOperand_obuf_outside (s : State) {fields : List Byte} (hk : fields.length ≤ 253) {a : Nat}
    (ha : fields.length + 3 ≤ a) : (s.wrapOperand fields).obuf.read a = s.obuf.read a := by
  obtain ⟨frame, -, hlength, hobuf⟩ := State.wrapOperand_output fields hk
  rw [hobuf, Mem.read_writeList_outside _ _ _ _ (.inr (by omega))]

/-- Settles O37: the two tests of `ILEN`, and beyond them WRAP on its fields. -/
theorem wrapCommand : Obligations.WrapCommand := by
  refine ⟨rfl, fun s => ⟨fun hlen => ?_, fun hk hfits => ?_, fun fields hk hf => ?_⟩⟩
  · exact ⟨_, execWrap_of_tooLong hlen, State.raise_err _ _ _, State.raise_errb _ _ _, by simp, by simp,
      s.raise_keepsAllBut _ _, fun a => by rw [State.raise_obuf]⟩
  · exact ⟨_, execWrap_of_tooManyFields hk hfits, State.raise_err _ _ _, State.raise_errb _ _ _, by simp, by simp,
      s.raise_keepsAllBut _ _, fun a => by rw [State.raise_obuf]⟩
  · have hlength := State.length_of_operandBytes hf
    rw [← hlength] at hk ⊢
    obtain ⟨frame, hframe, hobuf⟩ := s.wrapOperand_readList hk
    exact ⟨_, frame, execWrap_of_fields hf hk, hframe, rfl, hobuf, fun a ha => s.wrapOperand_obuf_outside hk ha,
      rfl, rfl, rfl, rfl, rfl, s.wrapOperand_keepsAllBut fields⟩

/-- Settles O43: an error writes no byte of OBUF, and a success ends with `ERR` = 0 and writes the frame alone. -/
theorem wrapStoreFrame : Obligations.WrapStoreFrame := by
  intro s t h a ha
  rcases execWrap_next h with ⟨-, rfl⟩ | ⟨-, -, rfl⟩ | ⟨hk, fields, hf, rfl⟩
  · rw [State.raise_obuf]
  · rw [State.raise_obuf]
  · rw [← State.length_of_operandBytes hf] at hk ha
    have hsuccess : (s.wrapOperand fields).err = 0#3 := rfl
    exact s.wrapOperand_obuf_outside hk (ha.resolve_left (not_not.2 hsuccess))

/-- Settles O55: by the invariant the bytes are a frame that `wrap` gives. -/
theorem validOutputVerifies : Obligations.ValidOutputVerifies := by
  intro s hinv hvalid
  obtain ⟨fields, frame, hframe, hread⟩ := hinv.output_group hvalid
  obtain ⟨-, -, hbyte, hok, -⟩ := wrapFields_eq_some_iff.1 hframe
  rw [Mem.readList_length hread] at hbyte
  exact ⟨frame, hread, hok, hbyte⟩

end Sys2Proof.Machine

/-!
PROOFS. The statements of 60_exceptions. What R197 asks of the valid bits is a predicate of the owned groups and the next
state (`State.ReportsOwned`), which every form a command's next state takes meets. A command faults or goes on by one test:
whether it comes to read an operand byte that nothing has written (`State.ReadsOperand`). The Session Loop is cut into the
runs of its parts: the inbound read, the Ack, and the treatment of the data.
-/

namespace Sys2Proof.Machine

/-! ## The step of an inbound message -/

/-- Settles O7: the host's step for a message that matches a row is that row. -/
theorem stepRunsInboundMessage : Obligations.StepRunsInboundMessage := by
  intro s field bytes rest i hc he hi
  rw [step_host hc he, State.hostStep, State.receiveRow, hi]

/-! ## Error entry -/

/-- Settles O44: the registers are those of the outcome's row in the table of R190, and a listed group loses its valid
bit. -/
theorem errorEntry : Obligations.ErrorEntry := by
  have raised (s : State) (e : ErrKind) (groups : List Group) :
      (s.raise e groups).err = e.code ∧ (s.raise e groups).errb = e.info :=
    ⟨s.raise_err e groups, s.raise_errb e groups⟩
  refine ⟨fun s b groups => ⟨raised s _ _, raised s _ _, raised s _ _, raised s _ _, raised s _ _, raised s _ _, rfl, rfl⟩,
    fun s e groups => ⟨s.raise_err e groups, s.raise_errb e groups, ?_, ?_, ?_, ?_, ?_, s.raise_keepsAllBut e groups⟩⟩
  · exact fun hc => by simp [hc]
  · exact fun hf => by simp [hf]
  · exact fun ho => by simp [ho]
  · exact fun hr => by simp [hr]
  · exact fun a => by rw [State.raise_obuf]

/-! ## The valid bits of the owned groups -/

/-- What 60_exceptions R197 asks of the next state of an instruction that owns these groups. -/
def State.ReportsOwned (t : State) (gs : List Group) : Prop :=
  (t.err ≠ 0#3 → (Group.f ∈ gs → t.fValid = false) ∧ (Group.o ∈ gs → t.oValid = false)
    ∧ (Group.r ∈ gs → t.rValid = false)
    ∧ (Group.c ∈ gs → t.cValid = true → Group.f ∈ gs ∧ 4 ≤ t.ilen ∧ t.ilen ≤ Config.maxMsg)) ∧
  (t.err = 0#3 → t.errb = 0x00#8 ∧ (Group.c ∈ gs → t.cValid = true) ∧ (Group.f ∈ gs → t.fValid = true)
    ∧ (Group.o ∈ gs → t.oValid = true) ∧ (Group.r ∈ gs → t.rValid = true))

theorem ErrKind.code_ne_zero (e : ErrKind) : e.code ≠ 0#3 := by
  cases e <;> simp [ErrKind.code]

/-- An error that takes every owned group. -/
theorem State.raise_reportsOwned (s : State) (e : ErrKind) (gs : List Group) : (s.raise e gs).ReportsOwned gs := by
  refine ⟨fun _ => ⟨fun hf => by simp [hf], fun ho => by simp [ho], fun hr => by simp [hr], fun hc => by simp [hc]⟩,
    fun h => absurd h ?_⟩
  rw [State.raise_err]
  exact e.code_ne_zero

theorem State.setResult_reportsOwned (s : State) (b : Byte) (k : BitVec 2) : (s.setResult b k).ReportsOwned [.r] := by
  simp [State.ReportsOwned]

theorem State.setCsum_succeed_reportsOwned (s : State) (c : U16) : (s.setCsum c).succeed.ReportsOwned [.c] := by
  simp [State.ReportsOwned]

theorem State.wrapOperand_reportsOwned (s : State) (fields : List Byte) :
    (s.wrapOperand fields).ReportsOwned [.o, .c] := by
  simp [State.ReportsOwned, State.wrapOperand]

/-- DECODE of a message it reads keeps C valid in an error too (42_decoder R156). -/
theorem State.decodeOperand_reportsOwned (s : State) (m : List Byte) (h4 : 4 ≤ s.ilen) (hlen : s.ilen ≤ Config.maxMsg) :
    (s.decodeOperand m).ReportsOwned [.f, .c] := by
  rcases State.decodeOperand_uniform m with ⟨e, he⟩ | ⟨-, source, hf⟩
  · rw [he]
    simp [State.ReportsOwned, e.code_ne_zero, h4, hlen]
  · rw [hf]
    simp [State.ReportsOwned]

theorem State.runDecode_reportsOwned {s t : State} (h : s.runDecode = .next t) : t.ReportsOwned [.f, .c] := by
  rcases State.runDecode_next h with ⟨-, rfl⟩ | ⟨-, rfl⟩ | ⟨h4, hlen, m, -, rfl⟩
  · exact s.raise_reportsOwned _ _
  · exact s.raise_reportsOwned _ _
  · exact s.decodeOperand_reportsOwned m h4 hlen

theorem State.receive_reportsOwned {s t : State} {m : List Byte} (h : s.receive m = .next t) :
    t.ReportsOwned [.f, .c] :=
  State.runDecode_reportsOwned (State.receive_next h).2

/-- Settles O45: an error takes every owned group, but for C once DECODE has written `CSUM`; a success validates them. -/
theorem errorsClearOwnedGroups : Obligations.ErrorsClearOwnedGroups := by
  intro i s t h
  change t.ReportsOwned (owns i)
  cases i with
  | csum =>
    rcases execCsum_next h with ⟨-, rfl⟩ | ⟨-, payload, -, rfl⟩
    · exact s.raise_reportsOwned _ _
    · exact s.setCsum_succeed_reportsOwned _
  | decode => exact State.runDecode_reportsOwned h
  | wrap =>
    rcases execWrap_next h with ⟨-, rfl⟩ | ⟨-, -, rfl⟩ | ⟨-, fields, -, rfl⟩
    · exact s.raise_reportsOwned _ _
    · exact s.raise_reportsOwned _ _
    · exact s.wrapOperand_reportsOwned fields
  | opdec => cases h; exact s.setResult_reportsOwned _ _
  | openc => cases h; exact s.setResult_reportsOwned _ _
  | srcdec =>
    rcases execSrcdec_next h with ⟨source, -, rfl⟩ | ⟨-, rfl⟩
    · exact s.setResult_reportsOwned _ _
    · exact s.raise_reportsOwned _ _
  | srcenc =>
    rcases execSrcenc_next h with ⟨source, -, rfl⟩ | ⟨-, rfl⟩
    · exact s.setResult_reportsOwned _ _
    · exact s.raise_reportsOwned _ _
  | stdec => cases h; exact s.setResult_reportsOwned _ _
  | ctdec =>
    rcases execCtdec_next h with ⟨-, rfl⟩ | ⟨-, rfl⟩
    · exact s.setResult_reportsOwned _ _
    · exact s.raise_reportsOwned _ _
  | _ => exact State.receive_reportsOwned h

/-! ## The fault of an unwritten operand byte -/

/-- The command passes the tests of `ILEN` that come before its first read of IBUF; a table command reads none. (A frame row
brings its message with it and is not asked.) -/
def State.ReadsOperand (s : State) : Instr → Prop
  | .csum => s.ilen ≤ Config.maxMsg
  | .decode => 4 ≤ s.ilen ∧ s.ilen ≤ Config.maxMsg
  | .wrap => s.ilen ≤ 253
  | _ => False

/-- The operand is there exactly when each of its bytes has been written. -/
theorem State.operandBytes_eq_none_iff (s : State) : s.operandBytes = none ↔ ¬ s.OperandsWritten := by
  simp [State.operandBytes, Mem.readList_eq_none, State.OperandsWritten]

theorem State.exists_operandBytes {s : State} (h : s.OperandsWritten) : ∃ m, s.operandBytes = some m :=
  Option.ne_none_iff_exists'.1 fun hnone => s.operandBytes_eq_none_iff.1 hnone h

theorem exec_of_unwritten {i : Instr} {s : State} (hreads : s.ReadsOperand i) (h : ¬ s.OperandsWritten) :
    exec i s = .fault .unwrittenIbuf := by
  have hnone := s.operandBytes_eq_none_iff.2 h
  cases i with
  | csum =>
    have hbad := s.badLength_false_iff.2 hreads
    simp [exec, execCsum, hbad, hnone]
  | decode =>
    obtain ⟨h4, hlen⟩ := hreads
    have hbad := s.badLength_false_iff.2 hlen
    simp [exec, execDecode, State.runDecode, hbad, Nat.not_lt.2 h4, hnone]
  | wrap =>
    have hk : s.ilen ≤ 253 := hreads
    have hbad := s.badLength_false_iff.2 (hk.trans (by have := Config.maxMsg_ge; omega))
    simp [exec, execWrap, hbad, Nat.not_lt.2 hk, hnone]
  | _ => exact hreads.elim

theorem exec_of_written {i : Instr} {s : State} (hi : formatOf i = .command)
    (h : s.ReadsOperand i → s.OperandsWritten) : ∃ t, exec i s = .next t := by
  cases i with
  | csum =>
    by_cases hlen : s.ilen ≤ Config.maxMsg
    · obtain ⟨payload, hp⟩ := State.exists_operandBytes (h hlen)
      exact ⟨_, execCsum_of_payload hlen hp⟩
    · exact ⟨_, execCsum_of_tooLong (by omega)⟩
  | decode =>
    by_cases hlen : s.ilen ≤ Config.maxMsg
    · by_cases h4 : 4 ≤ s.ilen
      · obtain ⟨m, hm⟩ := State.exists_operandBytes (h ⟨h4, hlen⟩)
        have hlength := State.length_of_operandBytes hm
        exact ⟨_, State.runDecode_of_operand hm (by omega) (by omega)⟩
      · exact ⟨_, State.runDecode_of_noChecksumField (by omega)⟩
    · exact ⟨_, State.runDecode_of_tooLong (by omega)⟩
  | wrap =>
    by_cases hk : s.ilen ≤ 253
    · obtain ⟨fields, hf⟩ := State.exists_operandBytes (h hk)
      exact ⟨_, execWrap_of_fields hf ((State.length_of_operandBytes hf).trans_le hk)⟩
    · by_cases hlen : s.ilen ≤ Config.maxMsg
      · exact ⟨_, execWrap_of_tooManyFields (by omega) hlen⟩
      · exact ⟨_, execWrap_of_tooLong (by omega)⟩
  | opdec => exact ⟨_, rfl⟩
  | openc => exact ⟨_, rfl⟩
  | srcdec =>
    cases hs : sourceOfByte s.arg with
    | none => exact ⟨_, execSrcdec_of_none hs⟩
    | some source => exact ⟨_, execSrcdec_of_some hs⟩
  | srcenc =>
    cases hs : s.sourceOperand with
    | none => exact ⟨_, execSrcenc_of_none hs⟩
    | some source => exact ⟨_, execSrcenc_of_some hs⟩
  | stdec => exact ⟨_, rfl⟩
  | ctdec =>
    by_cases hmem : Config.ctSet s.arg = true
    · exact ⟨_, execCtdec_of_mem hmem⟩
    · exact ⟨_, execCtdec_of_not_mem hmem⟩
  | _ => cases hi

/-- A command faults exactly when it comes to read a byte that nothing has written (60_exceptions R207, 70_reset R223). -/
theorem exec_eq_fault_iff {i : Instr} (hi : formatOf i = .command) (s : State) :
    exec i s = .fault .unwrittenIbuf ↔ s.ReadsOperand i ∧ ¬ s.OperandsWritten := by
  refine ⟨fun hfault => ?_, fun ⟨hreads, h⟩ => exec_of_unwritten hreads h⟩
  by_contra hgood
  obtain ⟨t, ht⟩ := exec_of_written hi (s := s) (by tauto)
  rw [ht] at hfault
  cases hfault

/-- Settles O46: `exec_eq_fault_iff` for each command, and where it does not fault `exec_of_written`. -/
theorem unwrittenOperandFaults : Obligations.UnwrittenOperandFaults := by
  intro s
  have table : ∀ i ∈ [Instr.opdec, .openc, .srcdec, .srcenc, .stdec, .ctdec],
      formatOf i = .command ∧ ¬ s.ReadsOperand i := by simp [formatOf, State.ReadsOperand]
  refine ⟨exec_eq_fault_iff rfl s, (exec_eq_fault_iff rfl s).trans and_assoc, exec_eq_fault_iff rfl s,
    fun i hi hgood => exec_of_written hi fun hreads => ?_, fun i hi => ?_,
    fun hwritten i hi => exec_of_written hi fun _ => hwritten⟩
  · by_contra h
    exact hgood (exec_of_unwritten hreads h)
  · obtain ⟨hcommand, hreads⟩ := table i hi
    exact exec_of_written hcommand fun h => absurd h hreads

/-! ## The Session Loop -/

/-- The host issues DECODE on the bytes of an inbound read (60_exceptions R211). -/
theorem runSteps_inbound {s : State} {m : List Byte} {rest : List Event} (hc : s.cmd = none)
    (hm : m.length ≤ Config.maxMsg) (he : s.events = .inbound m :: rest) :
    runSteps (m.length + 3) s = .next { s.loadMessage m with cmd := some 0x2#4, events := .react :: rest } := by
  have hload : runSteps (m.length + 2) s =
      .next { s.loadMessage m with events := .write .cmd 0x2 :: .react :: rest } := by
    refine (runSteps_succ (m.length + 1) (step_host hc he)).trans ?_
    exact runSteps_loadEvents m _ hc (by simp [inboundEvents]) hm
  rw [runSteps_add (m.length + 2) 1 hload]
  exact runSteps_one (step_events (s.loadMessage m) _ _ hc)

/-- The fields of the Ack frame (30_encoding R91). -/
def ackFields : List Byte := [0xd0#8, 0x04#8, 0x00#8]

/-- What the host's ACK leaves before the given steps: a WRAP of its three fields, loaded into IBUF (30_encoding R91). -/
def State.afterAck (s : State) (rest : List Event) : State :=
  State.wrapOperand { s.loadMessage ackFields with events := rest } ackFields

theorem runSteps_ackEvents {s : State} {rest : List Event} (hc : s.cmd = none) (he : s.events = ackEvents ++ rest) :
    runSteps 6 s = .next (s.afterAck rest) := by
  have hfits : ackFields.length ≤ Config.maxMsg := le_trans (by decide) Config.maxMsg_ge
  obtain ⟨-, hoperand⟩ := s.loadMessage_operand ackFields hfits
  have hload := runSteps_loadEvents ackFields (.write .cmd 0x3 :: rest) hc (by simp [he, ackEvents, ackFields]) hfits
  refine (runSteps_add (ackFields.length + 1) 2 hload).trans ?_
  exact runSteps_command (code := 0x3#4) hc rfl rfl (execWrap_of_fields hoperand (by decide))

/-- The Ack keeps the results that WRAP does not own. -/
theorem State.afterAck_kept (s : State) (rest : List Event) {g : Group} (hg : g ∉ [Group.o, .c]) :
    g.Kept s (s.afterAck rest) := by
  obtain ⟨-, -, hload⟩ : s.KeepsResults { s.loadMessage ackFields with events := rest } := s.keepsResults_of_hostSide
  obtain ⟨-, -, hwrap⟩ := State.wrapOperand_keepsAllBut { s.loadMessage ackFields with events := rest } ackFields
  exact Group.kept_trans (hload g) (hwrap g hg)

/-- The Ack keeps IBUF past its fields. -/
theorem State.afterAck_ibuf (s : State) (rest : List Event) {a : Nat} (ha : 3 ≤ a) :
    (s.afterAck rest).ibuf.read a = s.ibuf.read a :=
  Mem.read_writeList_outside s.ibuf 0 a ackFields (.inr ((Nat.zero_add _).trans_le ha))

/-- SEND after the WRAP of some fields hands over the frame `wrap` gives (30_encoding R90, 43_encoder R174). -/
theorem State.outputBytes_wrapOperand (s : State) {fields frame : List Byte} (h : wrapFields fields = some frame) :
    (s.wrapOperand fields).outputBytes = frame := by
  obtain ⟨hk, -⟩ := wrapFields_eq_some_iff.1 h
  obtain ⟨frame', hframe', hread⟩ := s.wrapOperand_readList hk
  obtain rfl : frame = frame' := Option.some.inj (h.symm.trans hframe')
  exact State.outputBytes_of_valid rfl hread

theorem State.afterAck_outputBytes (s : State) (rest : List Event) :
    (s.afterAck rest).outputBytes = [0x04#8, 0xD0#8, 0x04#8, 0x00#8, 0xFF#8, 0x28#8] :=
  State.outputBytes_wrapOperand _ rfl

/-- The Ack and its sending (60_exceptions R211): whatever was received, the same frame goes out, and what WRAP does not own
is kept, IBUF past the Ack's fields with it. -/
theorem runSteps_acknowledge {s : State} {rest : List Event} (hc : s.cmd = none)
    (he : s.events = ackEvents ++ .send :: rest) :
    ∃ t, runSteps 7 s = .next t ∧ t.events = rest ∧ t.cmd = none
      ∧ t.sent = s.sent ++ [[0x04#8, 0xD0#8, 0x04#8, 0x00#8, 0xFF#8, 0x28#8]]
      ∧ (∀ g, g ∉ [Group.o, .c] → g.Kept s t) ∧ ∀ a, 3 ≤ a → t.ibuf.read a = s.ibuf.read a := by
  have hsend : step (s.afterAck (.send :: rest)) =
      .next { s.afterAck rest with sent := s.sent ++ [(s.afterAck rest).outputBytes] } :=
    step_events (s.afterAck rest) _ _ hc
  obtain ⟨-, -, hsent⟩ : (s.afterAck rest).KeepsResults
      { s.afterAck rest with sent := s.sent ++ [(s.afterAck rest).outputBytes] } := State.keepsResults_of_hostSide _
  refine ⟨_, (runSteps_add 6 1 (runSteps_ackEvents hc he)).trans (runSteps_one hsend), rfl, hc, ?_,
    fun g hg => Group.kept_trans (s.afterAck_kept rest hg) (hsent g), fun a ha => s.afterAck_ibuf rest ha⟩
  rw [← s.afterAck_outputBytes rest]

/-- The reaction to a success puts the Ack, its sending and the treatment of the data next (60_exceptions R211). -/
theorem step_react_of_success {s : State} {rest : List Event} (hc : s.cmd = none) (he : s.events = .react :: rest)
    (herr : s.err = 0#3) : step s = .next { s with events := ackEvents ++ [.send, .handleData] ++ rest } := by
  rw [step_host hc he]
  simp [State.hostStep, State.reactEvents, herr]

/-- The reaction to an error issues nothing (60_exceptions R212). -/
theorem step_react_of_error {s : State} {rest : List Event} (hc : s.cmd = none) (he : s.events = .react :: rest)
    (herr : s.err ≠ 0#3) : step s = .next { s with events := rest } := by
  rw [step_host hc he]
  simp [State.hostStep, State.reactEvents, herr]

theorem State.holdsDecodeData_iff (s : State) : s.holdsDecodeData = true ↔ s.fValid = true ∧ s.fOpKind = 2#2 := by
  simp [State.holdsDecodeData]

/-- The data of a DecodeData frame is treated as `DD_POLICY` says (60_exceptions R213). -/
theorem step_handleData_of_data {s : State} {rest : List Event} (hc : s.cmd = none)
    (he : s.events = .handleData :: rest) (hkind : s.holdsDecodeData = true) (hdata : s.fDlen ≠ 0) :
    step s = .next { s with events := s.dataEvents ++ rest } := by
  rw [step_host hc he]
  exact (if_pos hkind).trans (if_neg hdata)

/-- For a DecodeData frame without data the host has no step (93 U5). -/
theorem step_handleData_of_empty {s : State} {rest : List Event} (hc : s.cmd = none)
    (he : s.events = .handleData :: rest) (hkind : s.holdsDecodeData = true) (hdata : s.fDlen = 0) :
    step s = .refused .emptyDecodeData := by
  rw [step_host hc he]
  exact (if_pos hkind).trans (if_pos hdata)

/-- A frame of another kind is left alone (60_exceptions R213). -/
theorem step_handleData_of_otherKind {s : State} {rest : List Event} (hc : s.cmd = none)
    (he : s.events = .handleData :: rest) (hkind : ¬ s.holdsDecodeData = true) :
    step s = .next { s with events := rest } := by
  rw [step_host hc he]
  exact if_neg hkind

/-- Settles O60: the runs of the Session Loop's parts, one after the other. -/
theorem sessionAcknowledges : Obligations.SessionAcknowledges := by
  intro s rest hc
  refine ⟨fun m hm he => runSteps_inbound hc hm he, fun he => ⟨fun herr => ?_, step_react_of_error hc he⟩,
    fun he => ⟨fun hvalid hkind hdata => ?_, fun hvalid hkind hdata => ?_, fun hother => ?_⟩, fun he => step_host hc he⟩
  · have hreact := step_react_of_success hc he herr
    obtain ⟨t, hack, hevents, hcmd, hsent, hkept, hibuf⟩ :=
      runSteps_acknowledge (s := { s with events := ackEvents ++ [.send, .handleData] ++ rest })
        (rest := .handleData :: rest) hc (by simp)
    exact ⟨hreact, t, (runSteps_succ 7 hreact).trans hack, hevents, hcmd, hsent, hkept .f (by simp), hkept .r (by simp),
      hibuf⟩
  · exact step_handleData_of_data hc he (s.holdsDecodeData_iff.2 ⟨hvalid, hkind⟩) hdata
  · exact step_handleData_of_empty hc he (s.holdsDecodeData_iff.2 ⟨hvalid, hkind⟩) hdata
  · refine step_handleData_of_otherKind hc he ?_
    rw [s.holdsDecodeData_iff]
    rintro ⟨hvalid, hkind⟩
    exact hother.elim (by simp [hvalid]) (absurd hkind)

end Sys2Proof.Machine
